-- ==== Sys2Proof/Word.lean ====
section
/-!
DEFINITION. The plain words of the station: bytes, 40-bit line values, 32-bit stamps, and the
numbers of lanes and watches (00_scope.md, "Conventions of the text", R1).
-/

namespace Sys2Proof

/-- A byte of the serial line. -/
abbrev Byte := BitVec 8

/-- A line set or a line value: bit n stands for line Ln (R1). -/
abbrev Lines := BitVec 40

/-- The 32-bit timestamp in microseconds (R162), and the start times and holdoff ends on its scale. -/
abbrev Stamp := BitVec 32

/-- A 32-bit serial of a capture record or of a notice (R114, R128). -/
abbrev Serial := BitVec 32

/-- A moment of elapsed time, in whole microseconds; SET_TIME does not move it (R51, R143, R166). -/
abbrev Moment := Nat

/-- Lane 0 to lane 3. -/
abbrev LaneId := Fin 4

/-- Watch W0 to W7. -/
abbrev WatchId := Fin 8

end Sys2Proof
end

