-- ==== Sys2Proof/Config.lean ====
section
/-!
DEFINITION. What the part fixes (its identity and the four line rates) and the free values of the model:
the choice among events that are due at the same microsecond of an idle step, and the order in which the
receivers take a change event that an idle step brings.
-/

namespace Sys2Proof

/-- Which of several events due at one moment an idle step takes first. The spec leaves the order to the
world (R96, R47, R60, R107), so the value has no body; it is applied to `State.freeIx`
(DESIGN CHOICE, notes/assumptions/2.md). -/
opaque Config.freeChoice : Nat → Nat

/-- Who takes a change event: the watch unit, or one lane engine (R23). -/
inductive Receiver where
  | watchUnit
  | lane (l : LaneId)
  deriving DecidableEq, Repr

/-- The order in which the receivers take a change event of an idle step. The spec needs no order (R23) and
gives both where it matters (R96), so the value has no body; it is applied to `State.freeIx`
(DESIGN CHOICE, notes/assumptions/2.md and 5.md). -/
opaque Config.freeOrder : Nat → List Receiver

/-- Vendor code of IDENTIFY (R156). -/
def Config.vendor : Nat := 0x5A

/-- Part code of IDENTIFY (R156). -/
def Config.part : Nat := 0x0028

/-- Revision of the part the manual describes (R156). -/
def Config.revision : Nat := 1

/-- The line rate in bit/s for a rate code (R141; FIGURE 2 of 00_scope.md). -/
def Config.bitRate (code : BitVec 2) : Nat :=
  if code = 0#2 then 115200
  else if code = 1#2 then 230400
  else if code = 2#2 then 460800
  else 921600

end Sys2Proof
end

