-- ==== Sys2Proof/Syntax.lean ====
section
/-!
DEFINITION. The commands of the block: one constructor for each row of spec/opcode_table.json. A row
is one whole, indivisible step of the station (95_what_each_step_holds.md). The 34 requests and BAD_KIND
carry no operands: each is the request decoder's step on the oldest frame of the inbound queue (R148),
which holds the addressing, the TAG and the payload (notes/assumptions/4.md).
-/

namespace Sys2Proof

/-- What the outside does at the field lines (R17, R24): `held` is the set of lines whose level it decides,
`levels` their levels. A line outside `held` has nothing connected to it but its driver and its pull-up; its
bit of `levels` has no meaning (notes/assumptions/6.md). -/
structure Outside where
  held : Lines
  levels : Lines
  deriving DecidableEq, Repr

/-- The commands: one constructor per row of the table. -/
inductive Instr where
  /-- FRAME_RECEIVED (R146): the second CRC byte of the frame in assembly has arrived; `began` is the moment
  its start bit began. -/
  | frameReceived (b : Byte) (began : Moment)
  /-- FRAMING_ERROR (R143): a character with a bad stop bit. -/
  | framingError (began : Moment)
  /-- GAP_TIMEOUT (R144): the gap inside a frame passes 4 character times. -/
  | gapTimeout
  /-- BAD_KIND (R151): the decoder takes a frame whose KIND is no request code. -/
  | badKind
  /-- REPLY_DELAY_EXPIRY (R154): the transmitter begins to send the reply of the reply slot. -/
  | replyDelayExpiry
  /-- REPLY_END (R154): the last stop bit of the reply. -/
  | replyEnd
  /-- COLLISION (R155): byte number `index` of the reply reads back as `back`. -/
  | collision (index : Nat) (back : Byte)
  | identify
  | setLink
  | joinGroups
  | linkStatus
  | readTime
  | setTime
  | setGuard
  | restart
  | clear
  | storeSteps
  | eraseSteps
  | readSteps
  | pageStatus
  | claimLines
  | releaseLines
  | readLines
  | setSegments
  | readSegments
  | setLane
  | arm
  | start
  | pause
  | resume
  | stop
  | abort
  | laneStatus
  | setWatch
  | enableWatches
  | watchStatus
  | setRing
  | readRing
  | trimRing
  | setNoticeMask
  | poll
  /-- CHANGE_EVENT (R23): the sampler reads the 40 lines, at which the outside does `outside`; `order` is
  the order in which the receivers take the event (R96 gives both orders where it matters;
  notes/assumptions/5.md). -/
  | changeEvent (outside : Outside) (order : List Receiver)
  /-- OPENING_COMPARISON (R53) of a lane. -/
  | openingComparison (l : LaneId)
  /-- HOLD_EXPIRY (R68) of a lane. -/
  | holdExpiry (l : LaneId)
  /-- AWAIT_TIMEOUT (R59) of a lane. -/
  | awaitTimeout (l : LaneId)
  /-- TIME_TRIGGER (R46) of a lane. -/
  | timeTrigger (l : LaneId)
  /-- HOLDOFF_EXPIRY (R107) of a watch. -/
  | holdoffExpiry (w : WatchId)
  /-- GUARD_EXPIRY (R168). -/
  | guardExpiry
  /-- POWER_RESET (R170): the supply rises into or falls out of its range. -/
  | powerReset
  /-- RESET_PIN (R170): the RESET pin goes low. -/
  | resetPin
  /-- FULL_RESET_END (R171): the end of a full reset, with the address straps, the rate straps and what the
  outside does at the lines when the sampler takes its first sample. -/
  | fullResetEnd (adr : BitVec 5) (spd : BitVec 2) (outside : Outside)
  /-- BYTE_RECEIVED (R143): a character arrives; `began` is the moment its start bit began. -/
  | byteReceived (b : Byte) (began : Moment)
  deriving DecidableEq, Repr

end Sys2Proof
end

