-- ==== Sys2Proof/WellFormed.lean ====
section
/-!
DEFINITION. When a command is well formed. Lane and watch numbers are in range by their types; what
remains are the order of receivers and the index of a reply byte. Every command has a meaning, well formed
or not: these checks say which operands a hardware event can carry.
-/

namespace Sys2Proof

/-- No receiver takes one change event twice (R23). -/
def Receiver.orderOk (order : List Receiver) : Bool :=
  decide order.Nodup

/-- The operands a real event can carry: a change event names each receiver at most once (R23), and a
collision names a byte of a frame of at most 248 bytes (R143). -/
def Instr.wellFormed : Instr → Bool
  | .changeEvent _ order => Receiver.orderOk order
  | .collision index _ => decide (index < 248)
  | .frameReceived _ _ | .framingError _ | .gapTimeout | .badKind | .replyDelayExpiry | .replyEnd
  | .identify | .setLink | .joinGroups | .linkStatus | .readTime | .setTime | .setGuard | .restart
  | .clear | .storeSteps | .eraseSteps | .readSteps | .pageStatus | .claimLines | .releaseLines
  | .readLines | .setSegments | .readSegments | .setLane | .arm | .start | .pause | .resume | .stop
  | .abort | .laneStatus | .setWatch | .enableWatches | .watchStatus | .setRing | .readRing
  | .trimRing | .setNoticeMask | .poll | .openingComparison _ | .holdExpiry _ | .awaitTimeout _
  | .timeTrigger _ | .holdoffExpiry _ | .guardExpiry | .powerReset | .resetPin
  | .fullResetEnd _ _ _ | .byteReceived _ _ => true

end Sys2Proof
end

