-- ==== Sys2Proof/Machine/State.lean ====
section
/-!
DEFINITION. The state of the station as plain data: every block of 00_scope.md's FIGURE 1 with the
state its chapter gives it, what the outside does at the lines, and the fields of the model's own: the queue
of commands, the elapsed microseconds, the counter of free choices and the moment of the last sample
(notes/assumptions/11.md). `State.reset` is the station right after a full reset.
-/

namespace Sys2Proof.Machine

/-! ### The step store (01_step_store.md) -/

/-- The kind of a step (R3). EMPTY is no kind a step may have: an EMPTY slot has no entry. -/
inductive StepKind where
  | drive
  | await
  deriving DecidableEq, Repr

/-- When a step compares (R3). -/
inductive Check where
  | none
  | atEnd
  | throughout
  | awaitMatch
  deriving DecidableEq, Repr

/-- The on-mismatch action of a step (R3, R65 to R67). -/
inductive Mismatch where
  | goOn
  | halt
  | abort
  deriving DecidableEq, Repr

/-- A step record: the seven fields of R3. -/
structure StepRecord where
  kind : StepKind
  time : BitVec 16
  check : Check
  onMismatch : Mismatch
  driveValue : Lines
  expectValue : Lines
  expectMask : Lines
  deriving DecidableEq, Repr

/-- Data keyed by a number, in one canonical form: keys strictly rising, no entry for a key that holds
nothing. -/
abbrev Sparse (α : Type) := List (Nat × α)

/-! ### The line unit (02_lines_and_claims.md) -/

/-- An entry of the claim map (R18): the owner, the direction and, for a driven line, the rest level
(`true` is high). A free line and a sensed line have no rest level but low. -/
inductive LineClaim where
  | free
  | sense (l : LaneId)
  | drive (l : LaneId) (rest : Bool)
  deriving DecidableEq, Repr

/-! ### The lane engines (03, 04 and 05) -/

/-- The tick unit of a lane (R37). -/
inductive TickUnit where
  | us1
  | us10
  | us100
  | us1000
  deriving DecidableEq, Repr

/-- The five options of a lane (R37); `checkpoint = none` is the option's value none. -/
structure LaneOptions where
  tick : TickUnit
  settle : BitVec 8
  checkpoint : Option Nat
  loop : Bool
  record : Bool
  deriving DecidableEq, Repr

/-- The options after a full reset and after a CLEAR (R37, R48). -/
def LaneOptions.default : LaneOptions :=
  { tick := .us10, settle := 0, checkpoint := none, loop := false, record := false }

/-- A segment entry (R32): first step, step count, repeat (`passes`), the flags END, MARK and HALT,
and the cue. -/
structure SegmentEntry where
  first : Nat
  count : Nat
  passes : Nat
  isEnd : Bool
  mark : Bool
  halt : Bool
  cue : Option LaneId
  deriving DecidableEq, Repr

/-- The state of a lane (R73). -/
inductive LaneState where
  | idle
  | armed
  | running
  | paused
  | halted
  deriving DecidableEq, Repr

/-- How a run ended (R75). -/
inductive Result where
  | none
  | completed
  | abortedRequest
  | abortedFault
  | abortedWatch
  | abortedGuard
  deriving DecidableEq, Repr

/-- What RESUME does (R75, R87). -/
inductive ResumePoint where
  | none
  | step
  | completion
  | afterHalt
  deriving DecidableEq, Repr

/-- The source of a start (R42): a START request, a watch, the cue of a lane, or the time trigger. -/
inductive StartSource where
  | request
  | watch (w : WatchId)
  | cue (l : LaneId)
  | time
  deriving DecidableEq, Repr

/-- A position (R49): entry index, pass, step offset. -/
structure Position where
  entry : Nat
  pass : Nat
  offset : Nat
  deriving DecidableEq, Repr

/-- A lane engine. `timer` is the moment the step timer expires and `settleEnd` the moment the settle
window ends, none while stopped; `origin` is the step's origin (R50); `driveValue` is the drive value of
the step the lane last began (R20); `opened` says that the opening comparison has been made (R53). -/
structure Lane where
  state : LaneState
  segments : List SegmentEntry
  options : LaneOptions
  sources : BitVec 4
  startTime : Stamp
  triggerArmed : Bool
  position : Position
  current : Option StepRecord
  driveValue : Lines
  origin : Moment
  timer : Option Moment
  settleEnd : Option Moment
  opened : Bool
  checking : Bool
  pausePending : Bool
  restartPending : Bool
  stopRequested : Bool
  passCount : Nat
  faultCount : Nat
  lastResult : Result
  resumePoint : ResumePoint
  runSource : Option StartSource
  deriving DecidableEq, Repr

/-- The position of a lane with no run (R49). -/
def Position.none : Position := { entry := 0, pass := 0, offset := 0 }

/-- A lane after a full reset and after a CLEAR (R48, R72, R95, R97). -/
def Lane.cleared : Lane :=
  { state := .idle, segments := [], options := LaneOptions.default, sources := 0, startTime := 0,
    triggerArmed := false, position := Position.none, current := none, driveValue := 0, origin := 0,
    timer := none, settleEnd := none, opened := false, checking := false, pausePending := false,
    restartPending := false, stopRequested := false, passCount := 0, faultCount := 0,
    lastResult := .none, resumePoint := .none, runSource := none }

/-! ### The watch unit (06_watches.md) -/

/-- The state of a watch (R100). -/
inductive WatchState where
  | undefined
  | disabled
  | enabled
  | spent
  deriving DecidableEq, Repr

/-- The condition of a watch (R101). -/
inductive WatchCondition where
  | enter
  | leave
  | change
  deriving DecidableEq, Repr

/-- What the LANE action delivers (R99, R106). -/
inductive LaneAction where
  | start
  | pause
  | abort
  deriving DecidableEq, Repr

/-- A watch definition (R99). `laneAction` is the LANE action with its target lane, none when LANE is
not among the actions: the two fields are then not looked at (R109), and a definition is never read back
(R180). -/
structure WatchDef where
  mask : Lines
  pattern : Lines
  condition : WatchCondition
  oneShot : Bool
  holdoff : BitVec 16
  record : Bool
  notify : Bool
  laneAction : Option (LaneId × LaneAction)
  deriving DecidableEq, Repr

/-- A watch (R98): state, definition, hit count, and the end of its holdoff while that runs. -/
structure Watch where
  state : WatchState
  defn : Option WatchDef
  hits : Nat
  holdoffEnd : Option Stamp
  deriving DecidableEq, Repr

/-- A watch after a full reset and after a CLEAR (R113). -/
def Watch.cleared : Watch := { state := .undefined, defn := none, hits := 0, holdoffEnd := none }

/-! ### The capture ring (07_capture_ring.md) -/

/-- What a capture record reports: its kind, its source and its details (R116). -/
inductive RecordBody where
  | stepFault (l : LaneId) (at_ : Position) (check : Check) (observed differing : Lines)
  | awaitTimeout (l : LaneId) (at_ : Position) (check : Check) (observed differing : Lines)
  | watchHit (w : WatchId) (observed changed : Lines)
  | laneStart (l : LaneId) (source : Option StartSource) (passCount : Nat)
  | laneEnd (l : LaneId) (result : Result) (passCount faultCount : Nat)
  | guard (lanesAborted : Nat)
  deriving DecidableEq, Repr

/-- A capture record (R115). -/
structure CaptureRecord where
  serial : Serial
  stamp : Stamp
  body : RecordBody
  deriving DecidableEq, Repr

/-- The ring policy (R114). -/
inductive RingPolicy where
  | keepOldest
  | keepNewest
  deriving DecidableEq, Repr

/-- The capture ring (R114): stored records oldest first, next serial, policy, threshold. -/
structure Ring where
  records : List CaptureRecord
  nextSerial : Serial
  policy : RingPolicy
  threshold : Nat
  deriving DecidableEq, Repr

/-! ### The notice set (08_notices_and_the_attention_line.md) -/

/-- The seven notice kinds whose source is a lane (R129). -/
inductive LaneNotice where
  | done
  | mark
  | halted
  | paused
  | checkpointReached
  | checkpointPassed
  | fault
  deriving DecidableEq, Repr

/-- The key of a notice: its kind with its source. The type has the 40 keys of R129. -/
inductive NoticeKey where
  | lane (k : LaneNotice) (l : LaneId)
  | watchHit (w : WatchId)
  | ringLevel
  | ringLoss
  | guardExpired
  | stationRestarted
  deriving DecidableEq, Repr

/-- The cause of a full reset (R170). -/
inductive ResetCause where
  | power
  | pin
  | request
  deriving DecidableEq, Repr

/-- The detail of a notice (R129): a result, an entry index, a position, a count (pass count, hit
count, fill or number of lanes), a serial, or a restart cause. -/
inductive NoticeDetail where
  | result (r : Result)
  | entryIndex (n : Nat)
  | position (p : Position)
  | count (n : Nat)
  | lanes (n : Nat)
  | serial (n : Serial)
  | cause (c : ResetCause)
  deriving DecidableEq, Repr

/-- A notice entry (R128). -/
structure NoticeEntry where
  serial : Serial
  key : NoticeKey
  count : Nat
  detail : NoticeDetail
  reported : Bool
  deriving DecidableEq, Repr

/-- The notice set (R128): entries oldest serial first, next serial, and the mask, bit n standing for the
kind with code n (R182). -/
structure NoticeSet where
  entries : List NoticeEntry
  nextSerial : Serial
  mask : BitVec 16
  deriving DecidableEq, Repr

/-! ### The station link (09_the_station_link.md) -/

/-- How a frame is addressed to the station (R142). -/
inductive Addressing where
  | unicast
  | group (g : Fin 16)
  | broadcast
  deriving DecidableEq, Repr

/-- A queued frame (R146): addressing, TAG, KIND, payload and the moment of its end. -/
structure Frame where
  addressing : Addressing
  tag : Byte
  kind : Byte
  payload : List Byte
  ended : Moment
  deriving DecidableEq, Repr

/-- A byte held by the link receiver: its value, the moment of its stop bit (the end of a frame whose last
byte it is, R143), and the group set in force at that moment (R158). -/
structure RxByte where
  value : Byte
  received : Moment
  groups : BitVec 16
  deriving DecidableEq, Repr

/-- A reply as built by the decoder (R153): TAG, KIND and payload, the status first. -/
structure Reply where
  tag : Byte
  kind : Byte
  payload : List Byte
  deriving DecidableEq, Repr

/-- The unicast repeat store (R149): TAG and KIND of the request, and the whole reply. -/
structure StoredReply where
  tag : Byte
  kind : Byte
  reply : Reply
  deriving DecidableEq, Repr

/-- The reply slot (R148, R154): the reply, the end of the frame it answers, the moment its sending
began (none while it waits out its delay), and whether a full reset follows its end (R172). -/
structure ReplySlot where
  reply : Reply
  requestEnd : Moment
  sendingSince : Option Moment
  restart : Bool
  deriving DecidableEq, Repr

/-- The three link blocks: link receiver, request decoder, reply transmitter (R161). `assembly` holds the
bytes of the frame in assembly from its SYNC on, and is empty in HUNT; `listenFrom` is the moment of the
last release of the line, before which no character that is looked at may have begun (R147). -/
structure Link where
  address : BitVec 5
  rate : BitVec 2
  groups : BitVec 16
  assembly : List RxByte
  listenFrom : Moment
  inbound : List Frame
  unicastStore : Option StoredReply
  groupStore : Option (Byte × Byte)
  slot : Option ReplySlot
  replyDelay : BitVec 8
  discarded : Nat
  overrun : Nat
  collision : Nat
  repeats : Nat
  deriving DecidableEq, Repr

/-! ### Station control (10_time_guard_and_restarts.md) -/

/-- The guard state (R166); in RUNNING it holds the moment of the timer's last restart. -/
inductive GuardState where
  | off
  | running (since : Moment)
  | expired
  deriving DecidableEq, Repr

/-- The station. `pending` is the queue of commands, first in first out. `now` counts elapsed
microseconds. `resetting` is the cause of the full reset in progress, none outside one (R170). `outside` is
what the outside does at the field lines (R17), `sampled` the sampled state and `sampleAt` the moment of the
last sample (R22). -/
structure State where
  pending : List Instr
  now : Moment
  freeIx : Nat
  resetting : Option ResetCause
  timestamp : Stamp
  guardPeriod : BitVec 16
  guard : GuardState
  link : Link
  slots : Sparse StepRecord
  refs : Vector Nat 128
  claims : Vector LineClaim 40
  outside : Outside
  sampled : Lines
  sampleAt : Moment
  lanes : Vector Lane 4
  watches : Vector Watch 8
  ring : Ring
  notices : NoticeSet
  deriving DecidableEq, Repr

/-- The reasons a command could stop the station with a fault: none. The spec gives every command an
effect in every state, so this type has no constructor, and that is safe: nothing the station does is
cut short. -/
inductive Fault where
  deriving DecidableEq, Repr

/-- The reasons a command has no meaning. -/
inductive Refusal where
  /-- A row of the table whose meaning is not written yet, by its mnemonic. Raised by an arm of exec
  alone, and by none of them now; safe, since the model stops where the hardware goes on. -/
  | notModelled (mnemonic : String)
  deriving DecidableEq, Repr

/-- The link blocks after a full reset, but for the straps (R161). -/
def Link.cleared : Link :=
  { address := 0, rate := 0, groups := 0, assembly := [], listenFrom := 0, inbound := [],
    unicastStore := none, groupStore := none, slot := none, replyDelay := 2, discarded := 0,
    overrun := 0, collision := 0, repeats := 0 }

/-- The ring after a full reset (R127). -/
def Ring.cleared : Ring :=
  { records := [], nextSerial := 1, policy := .keepOldest, threshold := 384 }

/-- The notice set as a full reset makes it, before STATION_RESTARTED is recorded (R139, R171). -/
def NoticeSet.cleared : NoticeSet := { entries := [], nextSerial := 1, mask := 0x0FFF }

/-- Every block at its values after a full reset, before the straps are read, the first sample is taken
and STATION_RESTARTED is recorded (R16, R30, R48, R72, R97, R113, R127, R161, R174). -/
def State.blank : State :=
  { pending := [], now := 0, freeIx := 0, resetting := none, timestamp := 0, guardPeriod := 0,
    guard := .off, link := Link.cleared, slots := [], refs := Vector.replicate 128 0,
    claims := Vector.replicate 40 .free, outside := { held := 0, levels := 0 }, sampled := 0,
    sampleAt := 0, lanes := Vector.replicate 4 Lane.cleared,
    watches := Vector.replicate 8 Watch.cleared, ring := Ring.cleared,
    notices := NoticeSet.cleared }

/-- The machine right after reset (R171, R139): a power-on reset, straps giving station address 1 and
115200 bit/s, and lines at which the outside does nothing, which all read high through their pull-ups
(DESIGN CHOICE, notes/assumptions/10.md; R17). -/
def State.reset : State :=
  { State.blank with
    link := { Link.cleared with address := 1, rate := 0 }
    sampled := BitVec.allOnes 40
    notices :=
      { entries :=
          [{ serial := 1, key := .stationRestarted, count := 1, detail := .cause .power,
             reported := false }]
        nextSerial := 2
        mask := 0x0FFF } }

end Sys2Proof.Machine
end

