-- ==== Sys2Proof/Machine/Operands.lean ====
section
/-!
DEFINITION. Every byte layout and every code of 11_message_and_record_formats.md: little-endian fields,
the CRC, the request codes with their lengths and group permission, and the layouts of step records,
segment entries, options, watch definitions, capture records, notice entries and replies.
-/

namespace Sys2Proof.Machine

/-! ### Bytes and fields (R1, R175) -/

/-- The value of a little-endian field. -/
def leNat : List Byte → Nat
  | [] => 0
  | b :: bs => b.toNat + 256 * leNat bs

/-- A number as a little-endian field of `k` bytes. -/
def leBytes : Nat → Nat → List Byte
  | 0, _ => []
  | k + 1, n => BitVec.ofNat 8 n :: leBytes k (n / 256)

/-- The byte at an offset of a payload. -/
def byteAt (p : List Byte) (off : Nat) : Byte := p.getD off 0

/-- The little-endian field of `n` bytes at an offset. -/
def fieldAt (p : List Byte) (off n : Nat) : Nat := leNat ((p.drop off).take n)

/-- The line set or line value at an offset (five bytes, R1). -/
def linesAt (p : List Byte) (off : Nat) : Lines := BitVec.ofNat 40 (fieldAt p off 5)

/-- The 32-bit serial or timestamp at an offset. -/
def wordAt (p : List Byte) (off : Nat) : BitVec 32 := BitVec.ofNat 32 (fieldAt p off 4)

/-- A line set or value as five bytes. -/
def linesBytes (v : Lines) : List Byte := leBytes 5 v.toNat

/-- A 32-bit value as four bytes. -/
def wordBytes (v : BitVec 32) : List Byte := leBytes 4 v.toNat

/-- One byte of a small number. -/
def byteOf (n : Nat) : Byte := BitVec.ofNat 8 n

/-- A flag byte: 1 when set, 0 when clear (R177). -/
def flagByte (b : Bool) : Byte := if b then 1 else 0

/-- A layout filled up to `k` bytes with zeros (R181, R182). -/
def padTo (k : Nat) (p : List Byte) : List Byte := p ++ List.replicate (k - p.length) 0

/-- The lane a lane byte names, none above 3. -/
def laneOf (b : Byte) : Option LaneId := if h : b.toNat < 4 then some ⟨b.toNat, h⟩ else none

/-- The watch a watch byte names, none above 7. -/
def watchOf (b : Byte) : Option WatchId := if h : b.toNat < 8 then some ⟨b.toNat, h⟩ else none

/-! ### The CRC (R145, R175): CRC-16, polynomial 0x1021, initial value 0xFFFF -/

/-- One bit through the CRC register, most significant bit first. -/
def crcShift (r : BitVec 16) : BitVec 16 :=
  if r.msb then (r <<< 1) ^^^ 0x1021#16 else r <<< 1

/-- One byte through the CRC register. -/
def crcByte (r : BitVec 16) (b : Byte) : BitVec 16 :=
  Nat.repeat crcShift 8 (r ^^^ (b.setWidth 16 <<< 8))

/-- The CRC of a run of bytes. -/
def crc16 (bytes : List Byte) : BitVec 16 := bytes.foldl crcByte 0xFFFF#16

/-- The two CRC bytes, the high byte first. -/
def crcBytes (bytes : List Byte) : List Byte :=
  [byteOf ((crc16 bytes).toNat / 256), byteOf (crc16 bytes).toNat]

/-! ### Status codes, requests and outcomes (R176 to R178) -/

/-- The status of a reply (00_scope.md, FIGURE 4). -/
inductive Status where
  | ok
  | badKind
  | badLength
  | badField
  | wrongState
  | lineTaken
  | pageInUse
  | listInvalid
  | late
  deriving DecidableEq, Repr

/-- The code of a status (R176). -/
def Status.code : Status → Byte
  | .ok => 0x00
  | .badKind => 0x01
  | .badLength => 0x02
  | .badField => 0x03
  | .wrongState => 0x04
  | .lineTaken => 0x05
  | .pageInUse => 0x06
  | .listInvalid => 0x07
  | .late => 0x08

/-- The requests of R177. -/
inductive Request where
  | identify
  | setLink
  | joinGroups
  | linkStatus
  | readTime
  | setTime
  | setGuard
  | restart
  | clear
  | storeSteps
  | eraseSteps
  | readSteps
  | pageStatus
  | claimLines
  | releaseLines
  | readLines
  | setSegments
  | readSegments
  | setLane
  | arm
  | start
  | pause
  | resume
  | stop
  | abort
  | laneStatus
  | setWatch
  | enableWatches
  | watchStatus
  | setRing
  | readRing
  | trimRing
  | setNoticeMask
  | poll
  deriving DecidableEq, Repr

/-- The request code (R177, FIGURE 3). -/
def Request.code : Request → Byte
  | .identify => 0x01
  | .setLink => 0x02
  | .joinGroups => 0x03
  | .linkStatus => 0x04
  | .readTime => 0x08
  | .setTime => 0x09
  | .setGuard => 0x0A
  | .restart => 0x0B
  | .clear => 0x0C
  | .storeSteps => 0x10
  | .eraseSteps => 0x11
  | .readSteps => 0x12
  | .pageStatus => 0x13
  | .claimLines => 0x18
  | .releaseLines => 0x19
  | .readLines => 0x1A
  | .setSegments => 0x20
  | .readSegments => 0x21
  | .setLane => 0x22
  | .arm => 0x23
  | .start => 0x28
  | .pause => 0x29
  | .resume => 0x2A
  | .stop => 0x2B
  | .abort => 0x2C
  | .laneStatus => 0x2D
  | .setWatch => 0x30
  | .enableWatches => 0x31
  | .watchStatus => 0x32
  | .setRing => 0x38
  | .readRing => 0x39
  | .trimRing => 0x3A
  | .setNoticeMask => 0x40
  | .poll => 0x41

/-- All requests. -/
def Request.all : List Request :=
  [.identify, .setLink, .joinGroups, .linkStatus, .readTime, .setTime, .setGuard, .restart, .clear,
   .storeSteps, .eraseSteps, .readSteps, .pageStatus, .claimLines, .releaseLines, .readLines,
   .setSegments, .readSegments, .setLane, .arm, .start, .pause, .resume, .stop, .abort, .laneStatus,
   .setWatch, .enableWatches, .watchStatus, .setRing, .readRing, .trimRing, .setNoticeMask, .poll]

/-- Whether a KIND is a request code (R151, R177). -/
def isRequestCode (k : Byte) : Bool := Request.all.any fun r => r.code == k

/-- The nine kinds allowed by group and broadcast (R151, R177). -/
def Request.groupAllowed : Request → Bool
  | .setTime | .clear | .arm | .start | .pause | .resume | .stop | .abort | .enableWatches => true
  | .identify | .setLink | .joinGroups | .linkStatus | .readTime | .setGuard | .restart
  | .storeSteps | .eraseSteps | .readSteps | .pageStatus | .claimLines | .releaseLines | .readLines
  | .setSegments | .readSegments | .setLane | .laneStatus | .setWatch | .watchStatus | .setRing
  | .readRing | .trimRing | .setNoticeMask | .poll => false

/-- The payload lengths allowed for a kind (R151, R177). -/
def Request.lengthOk (r : Request) (n : Nat) : Bool :=
  match r with
  | .identify | .readTime | .restart | .clear | .readLines | .watchStatus => n == 0
  | .setLink | .linkStatus | .releaseLines | .readSegments | .start | .pause | .resume | .stop
  | .abort | .laneStatus => n == 1
  | .joinGroups => decide (n ≤ 4)
  | .setGuard | .pageStatus | .enableWatches | .setNoticeMask => n == 2
  | .readSteps | .setRing => n == 3
  | .setTime | .eraseSteps | .trimRing => n == 4
  | .poll => n == 5
  | .setLane | .arm | .readRing => n == 6
  | .claimLines => n == 16
  | .setWatch => n == 18
  | .storeSteps => decide (20 ≤ n ∧ n ≤ 218 ∧ (n - 2) % 18 = 0)
  | .setSegments => decide (1 ≤ n ∧ n ≤ 169 ∧ (n - 1) % 7 = 0)

/-- The outcome of a lane-set request for one lane (R83). -/
inductive LaneOutcome where
  | notNamed
  | started
  | refused
  | queued
  | pending
  | noEffect
  | resumed
  | cancelled
  | set
  | aborted
  deriving DecidableEq, Repr

/-- The code of a lane-set outcome (R178). -/
def LaneOutcome.code : LaneOutcome → Byte
  | .notNamed => 0
  | .started => 1
  | .refused => 2
  | .queued => 3
  | .pending => 4
  | .noEffect => 5
  | .resumed => 6
  | .cancelled => 7
  | .set => 8
  | .aborted => 9

/-- The outcome of ENABLE_WATCHES for one watch (R110). -/
inductive WatchOutcome where
  | notNamed
  | enabled
  | disabled
  | undefined
  deriving DecidableEq, Repr

/-- The code of an ENABLE_WATCHES outcome (R178). -/
def WatchOutcome.code : WatchOutcome → Byte
  | .notNamed => 0
  | .enabled => 1
  | .disabled => 2
  | .undefined => 3

/-! ### Codes of names (R178) -/

def LaneState.code : LaneState → Byte
  | .idle => 0
  | .armed => 1
  | .running => 2
  | .paused => 3
  | .halted => 4

def Result.code : Result → Byte
  | .none => 0
  | .completed => 1
  | .abortedRequest => 2
  | .abortedFault => 3
  | .abortedWatch => 4
  | .abortedGuard => 5

def ResumePoint.code : ResumePoint → Byte
  | .none => 0
  | .step => 1
  | .completion => 2
  | .afterHalt => 3

/-- A start source or run source: its code, then its number byte; 0xFF for none (R178). -/
def sourceBytes : Option StartSource → List Byte
  | none => [0xFF, 0]
  | some .request => [0, 0]
  | some (.watch w) => [1, byteOf w.val]
  | some (.cue l) => [2, byteOf l.val]
  | some .time => [3, 0]

/-- The bit of a source in a start source set (R178). -/
def StartSource.bit : StartSource → Nat
  | .request => 0
  | .watch _ => 1
  | .cue _ => 2
  | .time => 3

def TickUnit.code : TickUnit → Byte
  | .us1 => 0
  | .us10 => 1
  | .us100 => 2
  | .us1000 => 3

def TickUnit.ofCode (b : Byte) : Option TickUnit :=
  if b = 0 then some .us1
  else if b = 1 then some .us10
  else if b = 2 then some .us100
  else if b = 3 then some .us1000
  else none

/-- The tick in microseconds (R51). -/
def TickUnit.micros : TickUnit → Nat
  | .us1 => 1
  | .us10 => 10
  | .us100 => 100
  | .us1000 => 1000

def WatchState.code : WatchState → Byte
  | .undefined => 0
  | .disabled => 1
  | .enabled => 2
  | .spent => 3

def RingPolicy.code : RingPolicy → Byte
  | .keepOldest => 0
  | .keepNewest => 1

def ResetCause.code : ResetCause → Byte
  | .power => 0
  | .pin => 1
  | .request => 2

/-- A two-valued option byte, none for an unassigned code (R178). -/
def boolOf (b : Byte) : Option Bool :=
  if b = 0 then some false else if b = 1 then some true else none

/-! ### Step records (R180, FIGURE 5) -/

def StepKind.code : StepKind → Nat
  | .drive => 1
  | .await => 2

def StepKind.ofCode (n : Nat) : Option StepKind :=
  if n = 1 then some .drive else if n = 2 then some .await else none

def Check.code : Check → Nat
  | .none => 0
  | .atEnd => 1
  | .throughout => 2
  | .awaitMatch => 3

def Check.ofCode (n : Nat) : Option Check :=
  if n = 0 then some .none
  else if n = 1 then some .atEnd
  else if n = 2 then some .throughout
  else if n = 3 then some .awaitMatch
  else Option.none

def Mismatch.code : Mismatch → Nat
  | .goOn => 0
  | .halt => 1
  | .abort => 2

def Mismatch.ofCode (n : Nat) : Option Mismatch :=
  if n = 0 then some .goOn
  else if n = 1 then some .halt
  else if n = 2 then some .abort
  else none

/-- The values a step record may take together (R4, FIGURE 3). -/
def StepRecord.valid (st : StepRecord) : Bool :=
  match st.kind with
  | .drive => decide (st.time ≠ 0) && decide (st.check ≠ .awaitMatch)
  | .await => decide (st.check = .awaitMatch)

/-- The step record of 18 bytes, none for a record R4 calls invalid. -/
def parseStep (r : List Byte) : Option StepRecord :=
  let c := (byteAt r 0).toNat
  if 128 ≤ c then none
  else
    match StepKind.ofCode (c % 4), Check.ofCode (c / 4 % 8), Mismatch.ofCode (c / 32 % 4) with
    | some k, some ch, some m =>
      let st : StepRecord :=
        { kind := k, time := BitVec.ofNat 16 (fieldAt r 1 2), check := ch, onMismatch := m,
          driveValue := linesAt r 3, expectValue := linesAt r 8, expectMask := linesAt r 13 }
      if st.valid then some st else none
    | _, _, _ => none

/-- The control byte of a step record. -/
def StepRecord.control (st : StepRecord) : Byte :=
  byteOf (st.kind.code + 4 * st.check.code + 32 * st.onMismatch.code)

/-- The 18 bytes of a slot: zeros for EMPTY (R3, R180). -/
def stepBytes : Option StepRecord → List Byte
  | none => List.replicate 18 0
  | some st =>
    st.control :: (leBytes 2 st.time.toNat ++ linesBytes st.driveValue
      ++ linesBytes st.expectValue ++ linesBytes st.expectMask)

/-! ### Segment entries (R180, FIGURE 6) -/

/-- Every field in the range of R32, FIGURE 1. -/
def SegmentEntry.fieldsOk (e : SegmentEntry) : Bool :=
  decide (e.first ≤ 2047 ∧ 1 ≤ e.count ∧ e.count ≤ 256 ∧ e.first + e.count ≤ 2048
    ∧ 1 ≤ e.passes ∧ e.passes ≤ 255)

/-- The cue of a cue byte: outer none for an unassigned code. -/
def cueOf (b : Byte) : Option (Option LaneId) :=
  if b = 0xFF then some none else (laneOf b).map some

/-- The segment entry of 7 bytes, none when a field is out of range or unassigned (R34, R179). -/
def parseEntry (r : List Byte) : Option SegmentEntry :=
  let f := (byteAt r 5).toNat
  match cueOf (byteAt r 6) with
  | none => none
  | some cue =>
    let e : SegmentEntry :=
      { first := fieldAt r 0 2, count := fieldAt r 2 2, passes := (byteAt r 4).toNat,
        isEnd := f % 2 == 1, mark := f / 2 % 2 == 1, halt := f / 4 % 2 == 1, cue := cue }
    if decide (f < 8) && e.fieldsOk then some e else none

/-- The flags byte of a segment entry. -/
def SegmentEntry.flags (e : SegmentEntry) : Byte :=
  byteOf ((if e.isEnd then 1 else 0) + (if e.mark then 2 else 0) + (if e.halt then 4 else 0))

/-- The cue byte. -/
def cueByte : Option LaneId → Byte
  | none => 0xFF
  | some l => byteOf l.val

/-- The 7 bytes of a segment entry. -/
def entryBytes (e : SegmentEntry) : List Byte :=
  leBytes 2 e.first ++ leBytes 2 e.count ++ [byteOf e.passes, e.flags, cueByte e.cue]

/-! ### Lane options (R38, R177) -/

/-- The checkpoint of its byte: outer none for an unassigned code. -/
def checkpointOf (b : Byte) : Option (Option Nat) :=
  if b = 0xFF then some none else if b.toNat < 24 then some (some b.toNat) else none

def checkpointByte : Option Nat → Byte
  | none => 0xFF
  | some n => byteOf n

/-- The options of a SET_LANE payload, or the position of the first option with an unassigned code
(R38, check 3). -/
def parseOptions (p : List Byte) : Except Nat LaneOptions :=
  match TickUnit.ofCode (byteAt p 1) with
  | none => .error 1
  | some tick =>
    match checkpointOf (byteAt p 3) with
    | none => .error 3
    | some checkpoint =>
      match boolOf (byteAt p 4) with
      | none => .error 4
      | some loop =>
        match boolOf (byteAt p 5) with
        | none => .error 5
        | some record =>
          .ok { tick := tick, settle := byteAt p 2, checkpoint := checkpoint, loop := loop,
                record := record }

/-- The five option bytes, in the order of the SET_LANE payload (R36). -/
def optionBytes (o : LaneOptions) : List Byte :=
  [o.tick.code, o.settle, checkpointByte o.checkpoint, flagByte o.loop, flagByte o.record]

/-! ### Watch definitions (R180, FIGURE 7) -/

def WatchCondition.ofCode (b : Byte) : Option WatchCondition :=
  if b = 0 then some .enter else if b = 1 then some .leave else if b = 2 then some .change else none

def LaneAction.ofCode (b : Byte) : Option LaneAction :=
  if b = 0 then some .start else if b = 1 then some .pause else if b = 2 then some .abort else none

/-- The LANE action of a definition: not looked at when LANE is not among the actions, else the target
lane (detail 5) and the lane action (detail 6) of R109. -/
def parseLaneAction (actions target action : Byte) : Except Nat (Option (LaneId × LaneAction)) :=
  if actions.toNat / 4 % 2 = 0 then .ok none
  else
    match laneOf target with
    | none => .error 5
    | some l =>
      match LaneAction.ofCode action with
      | none => .error 6
      | some a => .ok (some (l, a))

/-- The definition of 17 bytes, or the detail of the first check of R109 that fails. -/
def parseWatch (d : List Byte) : Except Nat WatchDef :=
  if linesAt d 0 = 0 then .error 1
  else
    match WatchCondition.ofCode (byteAt d 10) with
    | none => .error 2
    | some condition =>
      match boolOf (byteAt d 11) with
      | none => .error 3
      | some again =>
        let actions := byteAt d 14
        if 8 ≤ actions.toNat then .error 4
        else
          match parseLaneAction actions (byteAt d 15) (byteAt d 16) with
          | .error n => .error n
          | .ok laneAction =>
            .ok { mask := linesAt d 0, pattern := linesAt d 5, condition := condition,
                  oneShot := !again, holdoff := BitVec.ofNat 16 (fieldAt d 12 2),
                  record := actions.toNat % 2 == 1, notify := actions.toNat / 2 % 2 == 1,
                  laneAction := laneAction }

/-! ### Capture records (R181) -/

def laneSource (l : LaneId) : Byte := byteOf l.val

def watchSource (w : WatchId) : Byte := byteOf (0x10 + w.val)

/-- The kind code of a capture record (R181, FIGURE 8). -/
def RecordBody.kindCode : RecordBody → Byte
  | .stepFault .. => 1
  | .awaitTimeout .. => 2
  | .watchHit .. => 3
  | .laneStart .. => 4
  | .laneEnd .. => 5
  | .guard .. => 6

/-- The source code of a capture record (R178). -/
def RecordBody.sourceCode : RecordBody → Byte
  | .stepFault l .. => laneSource l
  | .awaitTimeout l .. => laneSource l
  | .watchHit w .. => watchSource w
  | .laneStart l .. => laneSource l
  | .laneEnd l .. => laneSource l
  | .guard .. => 0x30

/-- A position in a record or notice: entry index, pass, step offset in two bytes (R181, R182). -/
def positionBytes (p : Position) : List Byte :=
  [byteOf p.entry, byteOf p.pass] ++ leBytes 2 p.offset

/-- The details of a record before padding (R181, FIGURE 9). -/
def RecordBody.details : RecordBody → List Byte
  | .stepFault _ at_ check observed differing =>
    positionBytes at_ ++ [byteOf check.code] ++ linesBytes observed ++ linesBytes differing
  | .awaitTimeout _ at_ check observed differing =>
    positionBytes at_ ++ [byteOf check.code] ++ linesBytes observed ++ linesBytes differing
  | .watchHit _ observed changed => linesBytes observed ++ linesBytes changed
  | .laneStart _ source passCount => sourceBytes source ++ leBytes 2 passCount
  | .laneEnd _ result passCount faultCount =>
    [result.code] ++ leBytes 2 passCount ++ leBytes 2 faultCount
  | .guard lanesAborted => [byteOf lanesAborted]

/-- The 26 bytes of a capture record (R181, FIGURE 8). -/
def recordBytes (r : CaptureRecord) : List Byte :=
  wordBytes r.serial ++ wordBytes r.stamp ++ [r.body.kindCode, r.body.sourceCode]
    ++ padTo 16 r.body.details

/-! ### Notice entries (R182) -/

/-- The code and mask bit of a notice kind (R182, FIGURE 11). -/
def NoticeKey.kindCode : NoticeKey → Nat
  | .lane .done _ => 0
  | .lane .mark _ => 1
  | .lane .halted _ => 2
  | .lane .paused _ => 3
  | .lane .checkpointReached _ => 4
  | .lane .checkpointPassed _ => 5
  | .lane .fault _ => 6
  | .watchHit _ => 7
  | .ringLevel => 8
  | .ringLoss => 9
  | .guardExpired => 10
  | .stationRestarted => 11

/-- The source code of a notice (R178). -/
def NoticeKey.sourceCode : NoticeKey → Byte
  | .lane _ l => laneSource l
  | .watchHit w => watchSource w
  | .ringLevel => 0x20
  | .ringLoss => 0x20
  | .guardExpired => 0x30
  | .stationRestarted => 0x30

/-- The detail of a notice before padding (R182, FIGURE 11). -/
def NoticeDetail.bytes : NoticeDetail → List Byte
  | .result r => [r.code]
  | .entryIndex n => [byteOf n]
  | .position p => positionBytes p
  | .count n => leBytes 2 n
  | .lanes n => [byteOf n]
  | .serial n => wordBytes n
  | .cause c => [c.code]

/-- The 11 bytes of a listed notice entry; the reported flag is not sent (R182, FIGURE 10). -/
def noticeBytes (e : NoticeEntry) : List Byte :=
  wordBytes e.serial ++ [byteOf e.key.kindCode, e.key.sourceCode, byteOf e.count]
    ++ padTo 4 e.detail.bytes

/-! ### Replies (R153, R176) -/

/-- A reply payload of the status alone. -/
def statusAlone (st : Status) : List Byte := [st.code]

/-- A reply payload of status and one-byte detail. -/
def detail1 (st : Status) (d : Nat) : List Byte := [st.code, byteOf d]

/-- A reply payload of status and two-byte detail. -/
def detail2 (st : Status) (d : Nat) : List Byte := st.code :: leBytes 2 d

/-- An OK reply payload with fields. -/
def okFields (fields : List Byte) : List Byte := Status.ok.code :: fields

/-- The bytes of the reply frame from DEST to the last payload byte (R153, R175). -/
def Reply.body (address : BitVec 5) (r : Reply) : List Byte :=
  [0x00, address.setWidth 8, byteOf (r.payload.length + 2), r.tag, r.kind] ++ r.payload

/-- The whole reply frame as sent, SYNC to the second CRC byte (R153, R175). -/
def Reply.frame (address : BitVec 5) (r : Reply) : List Byte :=
  0xC3 :: (r.body address ++ crcBytes (r.body address))

end Sys2Proof.Machine
end

