-- ==== Sys2Proof/Machine/Ops.lean ====
section
/-!
DEFINITION. The named operations over the station's shared state: serial arithmetic, block updates,
the step store, page references, the claim map and drive levels, the capture ring, the notice set, the
guard, and the beginning of a full reset. Every block reaches the others through these.
-/

namespace Sys2Proof.Machine

/-! ### Serial arithmetic and saturating counts (R1) -/

/-- `a` is at or before `b` (R1). -/
def atOrBefore (a b : BitVec 32) : Bool := decide ((b - a).toNat < 2 ^ 31)

/-- A count that saturates at `top` goes up by 1 (R1). -/
def saturate (top n : Nat) : Nat := if n < top then n + 1 else top

/-! ### Keyed data in canonical form -/

/-- The canonical form: keys strictly rising. -/
def Sparse.wf {α : Type} : Sparse α → Bool
  | [] => true
  | [_] => true
  | (k, _) :: (k', v') :: rest => decide (k < k') && Sparse.wf ((k', v') :: rest)

/-- What a key holds. -/
def Sparse.get {α : Type} (m : Sparse α) (k : Nat) : Option α :=
  match m with
  | [] => none
  | (k', v) :: rest => if k' = k then some v else Sparse.get rest k

/-- Put a value under a key. -/
def Sparse.put {α : Type} (m : Sparse α) (k : Nat) (v : α) : Sparse α :=
  match m with
  | [] => [(k, v)]
  | (k', v') :: rest =>
    if k < k' then (k, v) :: (k', v') :: rest
    else if k = k' then (k, v) :: rest
    else (k', v') :: Sparse.put rest k v

/-- Remove every key of the run of `n` keys from `first`. -/
def Sparse.eraseRun {α : Type} (m : Sparse α) (first n : Nat) : Sparse α :=
  m.filter fun e => !(decide (first ≤ e.1) && decide (e.1 < first + n))

/-- Put the values of a list under consecutive keys. -/
def Sparse.putRun {α : Type} (m : Sparse α) (first : Nat) : List α → Sparse α
  | [] => m
  | v :: vs => Sparse.putRun (Sparse.put m first v) (first + 1) vs

/-! ### Block updates -/

/-- Lane engine `l`. -/
def State.lane (s : State) (l : LaneId) : Lane := s.lanes.get l

/-- Replace lane engine `l`. -/
def State.setLane (s : State) (l : LaneId) (x : Lane) : State :=
  { s with lanes := s.lanes.set l.val x l.isLt }

/-- Watch `w`. -/
def State.watch (s : State) (w : WatchId) : Watch := s.watches.get w

/-- Replace watch `w`. -/
def State.setWatch (s : State) (w : WatchId) (x : Watch) : State :=
  { s with watches := s.watches.set w.val x w.isLt }

/-- Replace the link blocks. -/
def State.setLink (s : State) (x : Link) : State := { s with link := x }

/-- Replace the capture ring. -/
def State.setRing (s : State) (x : Ring) : State := { s with ring := x }

/-- Replace the notice set. -/
def State.setNotices (s : State) (x : NoticeSet) : State := { s with notices := x }

/-- Replace the slots of the step store. -/
def State.setSlots (s : State) (x : Sparse StepRecord) : State := { s with slots := x }

/-- Replace the reference counts. -/
def State.setRefs (s : State) (x : Vector Nat 128) : State := { s with refs := x }

/-- Replace the claim map. -/
def State.setClaims (s : State) (x : Vector LineClaim 40) : State := { s with claims := x }

/-- Replace the guard state. -/
def State.setGuard (s : State) (x : GuardState) : State := { s with guard := x }

/-- Lanes in lane order, lane 0 first (R83). -/
def laneIds : List LaneId := [0, 1, 2, 3]

/-- Watches in watch order, W0 first (R102). -/
def watchIds : List WatchId := [0, 1, 2, 3, 4, 5, 6, 7]

/-! ### The step store (01_step_store.md) -/

/-- The content of a slot: a step record, or none for EMPTY (R2). -/
def State.slot (s : State) (n : Nat) : Option StepRecord := Sparse.get s.slots n

/-- The page of a slot (R2). -/
def pageOf (slot : Nat) : Nat := slot / 16

/-- The pages a run of `n` slots touches, lowest first (R10). -/
def pagesOfRun (first n : Nat) : List Nat :=
  (List.range 128).filter fun p =>
    decide (pageOf first ≤ p) && decide (p ≤ pageOf (first + n - 1))

/-- Whether an entry touches a page (R6). -/
def SegmentEntry.touches (e : SegmentEntry) (p : Nat) : Bool :=
  decide (e.first / 16 ≤ p) && decide (p ≤ (e.first + e.count - 1) / 16)

/-- Whether a segment list touches a page (R6). -/
def touches (list : List SegmentEntry) (p : Nat) : Bool := list.any fun e => e.touches p

/-- How many pages a list touches (R41). -/
def pagesTouched (list : List SegmentEntry) : Nat :=
  (List.range 128).countP fun p => touches list p

/-- The reference count of a page; 0 for a number that is no page. -/
def State.refCount (s : State) (p : Nat) : Nat := s.refs.toList.getD p 0

/-- The lowest locked page of a run, none when every page has count 0 (R10, check 3). -/
def State.lockedPage (s : State) (first n : Nat) : Option Nat :=
  (pagesOfRun first n).find? fun p => decide (0 < s.refCount p)

/-- Add 1 to the count of every page the list touches (R7). -/
def State.raiseRefs (s : State) (list : List SegmentEntry) : State :=
  s.setRefs (s.refs.mapIdx fun p c => if touches list p then c + 1 else c)

/-- Take 1 from the count of every page the list touches (R8). -/
def State.lowerRefs (s : State) (list : List SegmentEntry) : State :=
  s.setRefs (s.refs.mapIdx fun p c => if touches list p then c - 1 else c)

/-- Whether a page holds at least one step (R14). -/
def State.filled (s : State) (p : Nat) : Bool := s.slots.any fun e => pageOf e.1 == p

/-- The slots an entry reaches (R31). -/
def SegmentEntry.slots (e : SegmentEntry) : List Nat := List.range' e.first e.count

/-- The lowest EMPTY slot a list reaches (R40, check 4). -/
def State.lowestEmpty (s : State) (list : List SegmentEntry) : Option Nat :=
  ((list.flatMap SegmentEntry.slots).filter fun n => (s.slot n).isNone).min?

/-! ### The line unit (02_lines_and_claims.md) -/

/-- The line set of the lines below `k` that satisfy `p`. -/
def lineSetBelow (p : Nat → Bool) : Nat → Lines
  | 0 => 0
  | k + 1 => if p k then lineSetBelow p k ||| (1#40 <<< k) else lineSetBelow p k

/-- The set of lines that satisfy `p`. -/
def lineSet (p : Nat → Bool) : Lines := lineSetBelow p 40

/-- The lowest line of a set, none for the empty set. -/
def lowestLine (v : Lines) : Option Nat := (List.range 40).find? fun n => v.getLsbD n

/-- How many lines a set holds. -/
def lineCount (v : Lines) : Nat := (List.range 40).countP fun n => v.getLsbD n

/-- The lane that owns a line (R18). -/
def LineClaim.owner : LineClaim → Option LaneId
  | .free => none
  | .sense l => some l
  | .drive l _ => some l

/-- The claim of a line; a number that is no line is free. -/
def State.claim (s : State) (n : Nat) : LineClaim := s.claims.toList.getD n .free

/-- The drive set of a lane (R18). -/
def State.driveSet (s : State) (l : LaneId) : Lines :=
  lineSet fun n => match s.claim n with
    | .drive o _ => o == l
    | _ => false

/-- The sense set of a lane (R18). -/
def State.senseSet (s : State) (l : LaneId) : Lines :=
  lineSet fun n => match s.claim n with
    | .sense o => o == l
    | _ => false

/-- The rest value of a lane: the rest level of each line of its drive set, low elsewhere (R28). -/
def State.restValue (s : State) (l : LaneId) : Lines :=
  lineSet fun n => match s.claim n with
    | .drive o rest => o == l && rest
    | _ => false

/-- The lines owned by a lane other than `l` (R25, check 4). -/
def State.takenByOthers (s : State) (l : LaneId) : Lines :=
  lineSet fun n => match (s.claim n).owner with
    | some o => o != l
    | none => false

/-- The lines owned by lane `l`. -/
def State.ownedBy (s : State) (l : LaneId) : Lines :=
  lineSet fun n => (s.claim n).owner == some l

/-- The lines being driven: the union of the four drive sets (R19, R28). -/
def State.driven (s : State) : Lines :=
  lineSet fun n => match s.claim n with
    | .drive _ _ => true
    | _ => false

/-- The levels the drivers put out, low for a line that is not driven (R20): rest levels while the lane
is IDLE or ARMED, the drive value of the step it last began otherwise. -/
def State.drivenLevels (s : State) : Lines :=
  lineSet fun n => match s.claim n with
    | .drive l rest =>
      match (s.lane l).state with
      | .idle => rest
      | .armed => rest
      | .running => (s.lane l).driveValue.getLsbD n
      | .paused => (s.lane l).driveValue.getLsbD n
      | .halted => (s.lane l).driveValue.getLsbD n
    | _ => false

/-- The levels that stand on lines with given drivers (R17, R24): the outside's level on a line it holds, driven
or not; else the driver's level on a driven line; else high, through the pull-up. -/
def standingLevels (o : Outside) (driven levels : Lines) : Lines :=
  (o.held &&& o.levels) ||| (~~~o.held &&& (~~~driven ||| levels))

/-- The level that stands on each line now (R17, R24). -/
def State.lineLevels (s : State) : Lines := standingLevels s.outside s.driven s.drivenLevels

/-- The claim map after lane `l` claims a drive set and a sense set (R26). -/
def State.claimFor (s : State) (l : LaneId) (drive sense rest : Lines) : State :=
  s.setClaims (s.claims.mapIdx fun n c =>
    if drive.getLsbD n then .drive l (rest.getLsbD n)
    else if sense.getLsbD n then .sense l
    else if c.owner = some l then .free
    else c)

/-! ### The notice set (08_notices_and_the_attention_line.md) -/

/-- Whether the set records a kind: its mask bit, or STATION_RESTARTED (R132). -/
def NoticeSet.records (n : NoticeSet) (key : NoticeKey) : Bool :=
  n.mask.getLsbD key.kindCode || decide (key = .stationRestarted)

/-- The entry a raise leaves: new (R130), or the old one with a new serial and detail, one more
occurrence and reported clear (R131). -/
def NoticeSet.entryFor (n : NoticeSet) (key : NoticeKey) (detail : NoticeDetail) : NoticeEntry :=
  match n.entries.find? fun e => e.key == key with
  | some e =>
    { serial := n.nextSerial, key := key, count := saturate 255 e.count, detail := detail,
      reported := false }
  | none =>
    { serial := n.nextSerial, key := key, count := 1, detail := detail, reported := false }

/-- Raise a notice into the set (R130, R131, R132). -/
def NoticeSet.raise (n : NoticeSet) (key : NoticeKey) (detail : NoticeDetail) : NoticeSet :=
  if n.records key then
    { n with
      entries := (n.entries.filter fun e => e.key != key) ++ [n.entryFor key detail]
      nextSerial := n.nextSerial + 1 }
  else n

/-- Raise a notice at the station. -/
def State.raise (s : State) (key : NoticeKey) (detail : NoticeDetail) : State :=
  s.setNotices (s.notices.raise key detail)

/-- Raise a lane's notice. -/
def State.raiseLane (s : State) (k : LaneNotice) (l : LaneId) (detail : NoticeDetail) : State :=
  s.raise (.lane k l) detail

/-- ATTN is asserted exactly while the notice set is not empty (R133), and never in a reset (R170). -/
def State.attn (s : State) : Bool := s.resetting.isNone && !s.notices.entries.isEmpty

/-! ### The capture ring (07_capture_ring.md) -/

/-- Hand a record to the ring: it takes the next serial, is stored, refused or stored over the oldest,
and the ring raises RING_LEVEL or RING_LOSS before the maker goes on (R117 to R121). -/
def State.takeRecord (s : State) (body : RecordBody) : State :=
  let rec_ : CaptureRecord := { serial := s.ring.nextSerial, stamp := s.timestamp, body := body }
  let next := s.ring.nextSerial + 1
  if s.ring.records.length < 512 then
    let s' := s.setRing { s.ring with records := s.ring.records ++ [rec_], nextSerial := next }
    if s'.ring.records.length = s.ring.threshold then
      s'.raise .ringLevel (.count s'.ring.records.length)
    else s'
  else
    match s.ring.policy with
    | .keepOldest =>
      (s.setRing { s.ring with nextSerial := next }).raise .ringLoss (.serial rec_.serial)
    | .keepNewest =>
      match s.ring.records with
      | [] => s.setRing { s.ring with records := [rec_], nextSerial := next }
      | oldest :: rest =>
        (s.setRing { s.ring with records := rest ++ [rec_], nextSerial := next }).raise .ringLoss
          (.serial oldest.serial)

/-! ### The guard (R166, R167) -/

/-- An accepted frame restarts the guard at the end of that frame. -/
def State.restartGuard (s : State) (ended : Moment) : State :=
  match s.guard with
  | .off => s
  | .running _ => s.setGuard (.running ended)
  | .expired => s.setGuard (.running ended)

/-! ### Full reset (R170) -/

/-- The station held in reset by a cause: every block emptied, so no line is driven, ATTN is released, no
reply is on the line and nothing is assembled. What passes by outside (the queue of commands, the
elapsed time, what is done at the lines) is kept. -/
def State.heldInReset (s : State) (cause : ResetCause) : State :=
  { State.blank with
    pending := s.pending, now := s.now, freeIx := s.freeIx, outside := s.outside,
    resetting := some cause }

/-- A cause of a full reset begins: a second cause joins a reset that lasts; a REQUEST reset ends at once,
so it is over before another cause acts (R170). -/
def State.beginReset (s : State) (cause : ResetCause) : State :=
  match s.resetting with
  | none => s.heldInReset cause
  | some .request => s.heldInReset cause
  | some .power => s
  | some .pin => s

/-- An event outside a reset; in a reset every event but its own end and another cause is lost (R170). -/
def State.outsideReset (s : State) (f : State → State) : State :=
  match s.resetting with
  | none => f s
  | some _ => s

end Sys2Proof.Machine
end

