-- ==== Sys2Proof/Machine/Flags.lean ====
section
/-!
DEFINITION. Every flag and every moment the blocks judge: the receiver's phase and gap, the transmitter's
states, the three lane flags, the checking and timing of a step, the due moments of every timer, and the
conditions of comparisons and watches.
-/

namespace Sys2Proof.Machine

/-! ### The link receiver (R143, R144, R147) -/

/-- The phase of the link receiver. -/
inductive RxPhase where
  | hunt
  | header
  | body
  | check
  deriving DecidableEq, Repr

/-- LEN of the frame in assembly, 0 while its byte has not come. -/
def Link.lenByte (k : Link) : Nat := ((k.assembly.map RxByte.value).getD 3 0).toNat

/-- The phase follows from how many bytes are held (R143). -/
def Link.phase (k : Link) : RxPhase :=
  if k.assembly.length = 0 then .hunt
  else if k.assembly.length < 4 then .header
  else if k.assembly.length < 4 + k.lenByte then .body
  else .check

/-- Whether the next byte is the second CRC byte of the frame in assembly. -/
def Link.awaitsLast (k : Link) : Bool :=
  decide (4 ≤ k.assembly.length) && decide (k.assembly.length + 1 = k.lenByte + 6)

/-- The transmitter drives the line: a reply is being sent (R147). -/
def Link.sending (k : Link) : Bool :=
  match k.slot with
  | some x => x.sendingSince.isSome
  | none => false

/-- `chars` character times of 10 bits have gone by in `micros` microseconds, compared exactly: bits times a
million against microseconds times bits per second (R141). -/
def Link.charsPassed (k : Link) (chars micros : Nat) : Bool :=
  decide (chars * 10 * 1000000 ≤ micros * Config.bitRate k.rate)

/-- More than 4 character times lie between the last byte of the assembly and `until_` (R144). -/
def Link.gapPassed (k : Link) (until_ : Moment) : Bool :=
  match k.assembly.getLast? with
  | some b => decide (4 * 10 * 1000000 < (until_ - b.received) * Config.bitRate k.rate)
  | none => false

/-- The receiver looks at a character that began at a moment: the transmitter is not driving the line, and
the character began after its last release (R147). -/
def Link.listens (k : Link) (began : Moment) : Bool :=
  !k.sending && decide (k.listenFrom ≤ began)

/-- Add 1 to the discarded count (R145, R159). -/
def Link.countDiscard (k : Link) : Link := { k with discarded := saturate 65535 k.discarded }

/-- Discard the frame in assembly, if there is one, counted, and hunt (R143, R144, R147). -/
def Link.discardAssembly (k : Link) : Link :=
  if k.assembly.isEmpty then k
  else { k.countDiscard with assembly := [] }

/-- The reply delay has passed after the end of the frame answered, and the reply is still waiting
(R154). -/
def Link.replyDue (k : Link) (now : Moment) : Bool :=
  match k.slot with
  | some x =>
    x.sendingSince.isNone && k.charsPassed k.replyDelay.toNat (now - x.requestEnd)
  | none => false

/-- The last stop bit of the reply has gone out (R154): a reply of n bytes holds the line for n character
times. -/
def Link.replyOver (k : Link) (now : Moment) : Bool :=
  match k.slot with
  | some x =>
    match x.sendingSince with
    | some since => k.charsPassed (x.reply.frame k.address).length (now - since)
    | none => false
  | none => false

/-- Byte `index` of the reply has gone out and read back as another byte (R155). -/
def Link.readsBackWrong (k : Link) (now : Moment) (index : Nat) (back : Byte) : Bool :=
  match k.slot with
  | some x =>
    match x.sendingSince with
    | some since =>
      match (x.reply.frame k.address)[index]? with
      | some sent => decide (back ≠ sent) && k.charsPassed (index + 1) (now - since)
      | none => false
    | none => false
  | none => false

/-! ### The lane flags (R74) -/

/-- Set pause-pending (R85). -/
def Lane.askPause (x : Lane) : Lane := { x with pausePending := true }

/-- Clear pause-pending (R88). -/
def Lane.cancelPause (x : Lane) : Lane := { x with pausePending := false }

/-- Queue a restart: restart-pending set, stop-requested cleared (R84). -/
def Lane.queueRestart (x : Lane) : Lane := { x with restartPending := true, stopRequested := false }

/-- Ask for a stop: stop-requested set, restart-pending cleared (R89). -/
def Lane.askStop (x : Lane) : Lane := { x with stopRequested := true, restartPending := false }

/-- A source is in the lane's start source set (R42). -/
def Lane.hasSource (x : Lane) (src : StartSource) : Bool := x.sources.getLsbD src.bit

/-- No step in flight: timer and settle window stopped, checking clear, no current step (R62, R72,
R85). -/
def Lane.noStep (x : Lane) : Lane :=
  { x with current := none, timer := none, settleEnd := none, opened := false, checking := false }

/-- The remaining time of the current step in ticks (R50). -/
def Lane.remaining (x : Lane) (now : Moment) : Nat :=
  match x.current with
  | none => 0
  | some st => st.time.toNat - (now - x.origin) / x.options.tick.micros

/-! ### Comparisons (R52) -/

/-- The lines of the mask that do not stand at the expected level. -/
def StepRecord.differing (st : StepRecord) (sample : Lines) : Lines :=
  (sample ^^^ st.expectValue) &&& st.expectMask

/-- The comparison matches. -/
def StepRecord.matches_ (st : StepRecord) (sample : Lines) : Bool := st.differing sample == 0

/-- The check is one that makes an opening comparison (R53). -/
def Check.opens : Check → Bool
  | .throughout => true
  | .awaitMatch => true
  | .none => false
  | .atEnd => false

/-! ### Due moments of the lanes (R51, R53, R46) -/

/-- The step timer of a step of the given kind has run out in a RUNNING lane. -/
def Lane.timerDue (x : Lane) (kind : StepKind) (now : Moment) : Bool :=
  match x.state, x.current, x.timer with
  | .running, some st, some t => decide (st.kind = kind) && decide (t ≤ now)
  | _, _, _ => false

/-- The hold of a DRIVE step expires (R68). -/
def Lane.holdDue (x : Lane) (now : Moment) : Bool := x.timerDue .drive now

/-- The limit of an AWAIT step expires (R59). -/
def Lane.awaitDue (x : Lane) (now : Moment) : Bool := x.timerDue .await now

/-- The step timer has not run out before this moment (R53). -/
def Lane.timerOpen (x : Lane) (now : Moment) : Bool :=
  match x.timer with
  | none => true
  | some t => decide (now ≤ t)

/-- The opening comparison falls on the sample of this moment: the settle window has ended before it, the
comparison has not been made, and the step timer has not expired before it (R53). -/
def Lane.openingDue (x : Lane) (now : Moment) : Bool :=
  match x.state, x.current, x.settleEnd with
  | .running, some st, some e =>
    st.check.opens && !x.opened && decide (e < now) && x.timerOpen now
  | _, _, _ => false

/-- The opening comparison of lane `l` falls on the sample that has been taken at this moment (R53). -/
def State.openingDue (s : State) (l : LaneId) : Bool :=
  decide (s.sampleAt = s.now) && (s.lane l).openingDue s.now

/-- The sampler has not taken the sample of this microsecond (R22). -/
def State.sampleDue (s : State) : Bool := decide (s.sampleAt ≠ s.now)

/-- The AT_END comparison is made at the expiry: the settle window has ended before it (R55). -/
def Lane.settledAtEnd (x : Lane) : Bool :=
  match x.settleEnd, x.timer with
  | some e, some t => decide (e < t)
  | _, _ => false

/-- The time trigger fires: ARMED, trigger armed, and the timestamp equal to the start time (R46). -/
def Lane.triggerDue (x : Lane) (stamp : Stamp) : Bool :=
  decide (x.state = .armed) && x.triggerArmed && decide (stamp = x.startTime)

/-! ### Watches (R101, R107) -/

/-- The masked lines of a state are equal to the pattern (R101). -/
def WatchDef.equal (d : WatchDef) (v : Lines) : Bool := ((v ^^^ d.pattern) &&& d.mask) == 0

/-- The condition is met on a change event (R101). -/
def WatchDef.met (d : WatchDef) (previous new : Lines) : Bool :=
  match d.condition with
  | .enter => !d.equal previous && d.equal new
  | .leave => d.equal previous && !d.equal new
  | .change => ((previous ^^^ new) &&& d.mask) != 0

/-- The holdoff runs to its end at this timestamp (R107). -/
def Watch.holdoffDue (x : Watch) (stamp : Stamp) : Bool := decide (x.holdoffEnd = some stamp)

/-! ### The guard (R166, R168) -/

/-- The guard timer has run its period in RUNNING. -/
def State.guardDue (s : State) : Bool :=
  match s.guard with
  | .running since => decide (since + s.guardPeriod.toNat * 1000 ≤ s.now)
  | .off => false
  | .expired => false

end Sys2Proof.Machine
end

