-- ==== Sys2Proof/Machine/LaneEngine.lean ====
section
/-!
DEFINITION. What a lane engine does at each event that reaches it: a start, the beginning and end of a
step, a fault, a pause, a halt, an entry's completion, the end decision, an abort (04_running_steps.md and
05_lane_control_in_flight.md). The requests, watches and timers of the other files call these.
-/

namespace Sys2Proof.Machine

/-- The entry a position names; an entry index beyond the list (no run reaches one, R49) names an entry of
one slot with END. -/
def Lane.entryAt (x : Lane) (i : Nat) : SegmentEntry :=
  x.segments.getD i
    { first := 0, count := 1, passes := 1, isEnd := true, mark := false, halt := false, cue := none }

/-- The slot of the step the position names (R49). -/
def Lane.slotNumber (x : Lane) : Nat := (x.entryAt x.position.entry).first + x.position.offset

/-- The deadline of a step that begins now: none for an AWAIT step with limit 0 (R50, R51, R61). -/
def StepRecord.deadline (st : StepRecord) (tick : Nat) (now : Moment) : Option Moment :=
  match st.kind with
  | .drive => some (now + st.time.toNat * tick)
  | .await => if st.time = 0 then none else some (now + st.time.toNat * tick)

/-- A lane with a step just begun (R50). -/
def Lane.withStep (x : Lane) (st : StepRecord) (now : Moment) : Lane :=
  { x with
    current := some st, driveValue := st.driveValue, origin := now
    timer := st.deadline x.options.tick.micros now
    settleEnd := some (now + x.options.settle.toNat * x.options.tick.micros)
    opened := false, checking := false }

/-- A step begins at the position (R50): the lane reads its slot, drives its value, and starts the step
timer and the settle window. The slot of a lane with a run is never EMPTY (R9, R41); were it EMPTY, no step
would be in flight (notes/assumptions/16.md). -/
def State.beginStep (s : State) (l : LaneId) : State :=
  match s.slot (s.lane l).slotNumber with
  | some st => s.setLane l ((s.lane l).withStep st s.now)
  | none => s.setLane l (s.lane l).noStep

/-- The lane halts at a position with a resume point (R66, R77): no step in flight, a pending pause
absorbed, LANE_HALTED raised. -/
def State.haltLane (s : State) (l : LaneId) (p : Position) (point : ResumePoint) : State :=
  (s.setLane l
    { (s.lane l).noStep with
      state := .halted, position := p, resumePoint := point, pausePending := false }).raiseLane
    .halted l (.position p)

/-- A pause takes effect at a position (R85): PAUSED with resume point STEP, LANE_PAUSED raised. -/
def State.pauseLane (s : State) (l : LaneId) (p : Position) : State :=
  (s.setLane l
    { (s.lane l).noStep with
      state := .paused, position := p, resumePoint := .step, pausePending := false }).raiseLane
    .paused l (.position p)

/-- The lane goes on at a position: a pending pause takes effect there, else its step begins at once
(R68, R78, R80). -/
def State.goOnAt (s : State) (l : LaneId) (p : Position) : State :=
  if (s.lane l).pausePending then s.pauseLane l p
  else (s.setLane l { s.lane l with position := p }).beginStep l

/-- Entering an entry that is the lane's checkpoint raises CHECKPOINT_REACHED with the pass count
(R78, R80, R42). -/
def State.reachCheckpoint (s : State) (l : LaneId) (entry : Nat) : State :=
  if (s.lane l).options.checkpoint = some entry then
    s.raiseLane .checkpointReached l (.count (s.lane l).passCount)
  else s

/-- A LANE_START record, made when the lane records starts and ends (R42, R80). -/
def State.recordStart (s : State) (l : LaneId) (src : Option StartSource) : State :=
  if (s.lane l).options.record then
    s.takeRecord (.laneStart l src (s.lane l).passCount)
  else s

/-- A LANE_END record, made when the lane records starts and ends (R81, R82). -/
def State.recordEnd (s : State) (l : LaneId) (result : Result) : State :=
  if (s.lane l).options.record then
    s.takeRecord (.laneEnd l result (s.lane l).passCount (s.lane l).faultCount)
  else s

/-- The first position of a run (R42). -/
def Position.first : Position := { entry := 0, pass := 1, offset := 0 }

/-- A start taken at an ARMED lane (R42): trigger disarmed, RUNNING at the first position, run source
kept, LANE_START recorded, CHECKPOINT_REACHED when entry 0 is the checkpoint, and the first step begins. -/
def State.takeStart (s : State) (l : LaneId) (src : StartSource) : State :=
  ((((s.setLane l
    { s.lane l with
      state := .running, triggerArmed := false, position := Position.first,
      runSource := some src }).recordStart l (some src)).reachCheckpoint l 0).beginStep l)

/-- A start reaches a lane (R42 to R45, R93): taken by an ARMED lane that has its source, without effect
in every other case. -/
def State.startLane (s : State) (l : LaneId) (src : StartSource) : State :=
  if (s.lane l).state = .armed ∧ (s.lane l).hasSource src = true then s.takeStart l src else s

/-- A lane that has returned to IDLE with a result (R49, R72, R81, R82): no step in flight, trigger
disarmed, flags clear, no resume point, no run source, no position. Counts, sources, start time, list and
options stay. -/
def Lane.ended (x : Lane) (result : Result) : Lane :=
  { x.noStep with
    state := .idle, triggerArmed := false, position := Position.none, driveValue := 0, origin := 0
    pausePending := false, restartPending := false, stopRequested := false
    lastResult := result, resumePoint := .none, runSource := none }

/-- A run ends (R81, R82): LANE_END recorded, LANE_DONE raised, the pages released and the lane IDLE, its
drive lines back at rest (R20). -/
def State.endRun (s : State) (l : LaneId) (result : Result) : State :=
  let s' := (s.recordEnd l result).raiseLane .done l (.result result)
  (s'.lowerRefs (s'.lane l).segments).setLane l ((s'.lane l).ended result)

/-- An abort from any cause (R82): nothing at an IDLE lane. -/
def State.abortLane (s : State) (l : LaneId) (result : Result) : State :=
  if (s.lane l).state = .idle then s else s.endRun l result

/-- A restart at the end decision (R80). -/
def State.restartRun (s : State) (l : LaneId) : State :=
  let x := s.lane l
  let src := if x.restartPending then some .request else x.runSource
  (((s.setLane l
    { x with
      restartPending := false, passCount := saturate 65535 x.passCount,
      position := Position.first }).recordStart l src).reachCheckpoint l 0).goOnAt l Position.first

/-- The end decision (R79). -/
def State.endDecision (s : State) (l : LaneId) : State :=
  let x := s.lane l
  if x.stopRequested then s.endRun l .completed
  else if x.options.loop || x.restartPending then s.restartRun l
  else s.endRun l .completed

/-- The lane enters the entry after entry `i` (R78). -/
def State.nextEntry (s : State) (l : LaneId) (i : Nat) : State :=
  (s.reachCheckpoint l (i + 1)).goOnAt l { entry := i + 1, pass := 1, offset := 0 }

/-- What follows the HALT flag of an entry: the end decision or the next entry (R78, R79). -/
def State.afterHalt (s : State) (l : LaneId) : State :=
  let i := (s.lane l).position.entry
  if ((s.lane l).entryAt i).isEnd then s.endDecision l else s.nextEntry l i

/-- The MARK of a completed entry (R76). -/
def State.reportMark (s : State) (l : LaneId) (i : Nat) : State :=
  if ((s.lane l).entryAt i).mark then s.raiseLane .mark l (.entryIndex i) else s

/-- The cue of a completed entry, delivered to the cued lane (R45, R76). -/
def State.deliverCue (s : State) (l : LaneId) (i : Nat) : State :=
  match ((s.lane l).entryAt i).cue with
  | some target => s.startLane target (.cue l)
  | none => s

/-- CHECKPOINT_PASSED at the completion of the checkpoint entry (R76). -/
def State.passCheckpoint (s : State) (l : LaneId) (i : Nat) : State :=
  if (s.lane l).options.checkpoint = some i then
    s.raiseLane .checkpointPassed l (.count (s.lane l).passCount)
  else s

/-- The position of a completed entry: its last pass, step offset equal to its step count (R49, R77). -/
def Lane.completionOf (x : Lane) (i : Nat) : Position :=
  { entry := i, pass := (x.entryAt i).passes, offset := (x.entryAt i).count }

/-- The completion of the entry the position names (R70, R76 to R79): MARK, cue, checkpoint, HALT flag,
then the end decision or the next entry. -/
def State.complete (s : State) (l : LaneId) : State :=
  let i := (s.lane l).position.entry
  let s' := ((s.reportMark l i).deliverCue l i).passCheckpoint l i
  if ((s'.lane l).entryAt i).halt then s'.haltLane l ((s'.lane l).completionOf i) .afterHalt
  else s'.afterHalt l

/-- The position after the step at the lane's position (R68): the next step, the next pass, or the
entry's completion (step offset equal to the step count). -/
def Lane.nextPosition (x : Lane) : Position :=
  let p := x.position
  let e := x.entryAt p.entry
  if p.offset + 1 < e.count then { p with offset := p.offset + 1 }
  else if p.pass < e.passes then { p with pass := p.pass + 1, offset := 0 }
  else { p with offset := e.count }

/-- The next position is the entry's completion (R68, case 3). -/
def Lane.atCompletion (x : Lane) : Bool :=
  let e := x.entryAt x.position.entry
  !decide (x.position.offset + 1 < e.count) && !decide (x.position.pass < e.passes)

/-- A step ends (R68): on to the next position, or to the entry's completion. -/
def State.endStep (s : State) (l : LaneId) : State :=
  let x := s.lane l
  let s' := s.setLane l { x.noStep with position := x.nextPosition }
  if x.atCompletion then s'.complete l else s'.goOnAt l x.nextPosition

/-- The record, notice and count of a fault (R63, R64). -/
def State.recordFault (s : State) (l : LaneId) (body : RecordBody) : State :=
  let s' := (s.takeRecord body).raiseLane .fault l (.position (s.lane l).position)
  s'.setLane l { s'.lane l with faultCount := saturate 65535 (s'.lane l).faultCount }

/-- A fault with HALT (R66): the lane halts at the position after the faulted step. -/
def State.haltOnFault (s : State) (l : LaneId) : State :=
  s.haltLane l (s.lane l).nextPosition
    (if (s.lane l).atCompletion then .completion else .step)

/-- The on-mismatch action of a fault; `goOn` says what GO_ON does (R65 to R67). -/
def State.act (s : State) (l : LaneId) (m : Mismatch) (goOn : State → State) : State :=
  match m with
  | .goOn => goOn s
  | .halt => s.haltOnFault l
  | .abort => s.abortLane l .abortedFault

/-- The hold of a DRIVE step expires (R54, R55, R56, R68). -/
def State.holdExpires (s : State) (l : LaneId) (st : StepRecord) : State :=
  let x := s.lane l
  if st.check = .atEnd ∧ x.settledAtEnd = true ∧ st.matches_ s.sampled = false then
    (s.recordFault l (.stepFault l x.position st.check s.sampled (st.differing s.sampled))).act l
      st.onMismatch (·.endStep l)
  else s.endStep l

/-- The limit of an AWAIT step expires before a match (R59). -/
def State.limitExpires (s : State) (l : LaneId) (st : StepRecord) : State :=
  let x := s.lane l
  ((s.setLane l { x with checking := false }).recordFault l
    (.awaitTimeout l x.position st.check s.sampled (st.differing s.sampled))).act l
    st.onMismatch (·.endStep l)

/-- The lane compares a sample in a step that checks (R56 to R58, R62): a THROUGHOUT step faults at a
failure and checks on at a match; an AWAIT step ends at a match and checks on at a failure. -/
def State.compareAt (s : State) (l : LaneId) (st : StepRecord) (sample : Lines) : State :=
  let x := s.lane l
  match st.check with
  | .throughout =>
    if st.matches_ sample then s.setLane l { x with checking := true }
    else
      ((s.setLane l { x with checking := false }).recordFault l
        (.stepFault l x.position st.check sample (st.differing sample))).act l st.onMismatch id
  | .awaitMatch =>
    if st.matches_ sample then s.endStep l else s.setLane l { x with checking := true }
  | .none => s
  | .atEnd => s

/-- A RESUME at a PAUSED or HALTED lane (R86, R87): RUNNING, the resume point cleared, and on by what it
said. -/
def State.resumeLane (s : State) (l : LaneId) : State :=
  let x := s.lane l
  let s' := s.setLane l { x with state := .running, resumePoint := .none }
  match x.resumePoint with
  | .step => s'.beginStep l
  | .none => s'.beginStep l
  | .completion => s'.complete l
  | .afterHalt => s'.afterHalt l

/-- A PAUSE, by request or by a watch, at a RUNNING lane sets pause-pending (R85, R92). -/
def State.askPause (s : State) (l : LaneId) : State :=
  if (s.lane l).state = .running then s.setLane l (s.lane l).askPause else s

end Sys2Proof.Machine
end

