-- ==== Sys2Proof/Machine/WatchUnit.lean ====
section
/-!
DEFINITION. What the watch unit does: the acts of a hit, the evaluation of a change event, the holdoffs
(06_watches.md), with the two events that reach it, CHANGE_EVENT (shared with the lanes) and
HOLDOFF_EXPIRY.
-/

namespace Sys2Proof.Machine

/-- The LANE action of a hit, delivered to its target lane (R106, R92). -/
def State.laneAction (s : State) (w : WatchId) (l : LaneId) (a : LaneAction) : State :=
  match a with
  | .start => s.startLane l (.watch w)
  | .pause => s.askPause l
  | .abort => s.abortLane l .abortedWatch

/-- A watch after a hit at a timestamp: the holdoff started when it is above 0, a ONE_SHOT watch SPENT
(R103, steps 5 and 6). -/
def Watch.afterHit (x : Watch) (d : WatchDef) (stamp : Stamp) : Watch :=
  { x with
    holdoffEnd := if d.holdoff = 0 then x.holdoffEnd else some (stamp + d.holdoff.setWidth 32)
    state := if d.oneShot then .spent else x.state }

/-- The acts of a hit, in the order of R103. -/
def State.watchHit (s : State) (w : WatchId) (d : WatchDef) (previous new : Lines) : State :=
  let stamp := s.timestamp
  let x := { s.watch w with hits := saturate 65535 (s.watch w).hits }
  let s1 := s.setWatch w x
  let s2 := if d.record then s1.takeRecord (.watchHit w new (previous ^^^ new)) else s1
  let s3 := if d.notify then s2.raise (.watchHit w) (.count x.hits) else s2
  let s4 := match d.laneAction with
    | some (l, a) => s3.laneAction w l a
    | none => s3
  s4.setWatch w ((s4.watch w).afterHit d stamp)

/-- A watch takes a change event: an ENABLED watch whose condition is met hits, unless its holdoff runs
(R101, R107). -/
def State.evaluateWatch (s : State) (previous new : Lines) (w : WatchId) : State :=
  match (s.watch w).state, (s.watch w).defn with
  | .enabled, some d =>
    if d.met previous new ∧ (s.watch w).holdoffEnd = none then s.watchHit w d previous new else s
  | _, _ => s

/-- The watch unit takes a change event, W0 first and W7 last (R102). -/
def State.evaluateWatches (s : State) (previous new : Lines) : State :=
  watchIds.foldl (fun s w => s.evaluateWatch previous new w) s

/-- A lane takes a change event: it compares only while it is checking (R23, R62). -/
def State.laneTakesChange (s : State) (new : Lines) (l : LaneId) : State :=
  match (s.lane l).state, (s.lane l).checking, (s.lane l).current with
  | .running, true, some st => s.compareAt l st new
  | _, _, _ => s

/-- One receiver takes a change event (R23). -/
def State.receiverTakes (s : State) (previous new : Lines) : Receiver → State
  | .watchUnit => s.evaluateWatches previous new
  | .lane l => s.laneTakesChange new l

/-- All receivers, the watch unit first. -/
def allReceivers : List Receiver := [.watchUnit, .lane 0, .lane 1, .lane 2, .lane 3]

/-- An order in which every receiver takes the event once: the one given, its first mentions, and the
receivers it leaves out after it (R23, notes/assumptions/5.md). -/
def deliveryOrder (order : List Receiver) : List Receiver :=
  let named := order.foldl (fun acc r => if acc.contains r then acc else acc ++ [r]) []
  named ++ allReceivers.filter fun r => !named.contains r

/-- A sample becomes the sampled state and is delivered to the watch unit and the lanes (R23). -/
def State.deliverSample (s : State) (sample : Lines) (order : List Receiver) : State :=
  (deliveryOrder order).foldl (fun t r => t.receiverTakes s.sampled sample r)
    { s with sampled := sample }

/-- The sampler reads the lines, once in every microsecond (R22, R23): a sample equal to the sampled state
makes no event, any other is a change event. A microsecond whose sample has been taken has no other. -/
def State.takeSample (s : State) (order : List Receiver) : State :=
  if s.sampleAt = s.now then s
  else if s.lineLevels = s.sampled then { s with sampleAt := s.now }
  else State.deliverSample { s with sampleAt := s.now } s.lineLevels order

/-- CHANGE_EVENT (R23): what the outside does at the lines, and the sample of this microsecond. -/
def execChangeEvent (outside : Outside) (order : List Receiver) (s : State) :
    Host.Outcome State Fault Refusal :=
  .next (s.outsideReset fun s => State.takeSample { s with outside := outside } order)

/-- HOLDOFF_EXPIRY (R107): at the timestamp of its end the holdoff is stopped. -/
def execHoldoffExpiry (w : WatchId) (s : State) : Host.Outcome State Fault Refusal :=
  .next (s.outsideReset fun s =>
    if (s.watch w).holdoffDue s.timestamp then s.setWatch w { s.watch w with holdoffEnd := none }
    else s)

end Sys2Proof.Machine
end

