-- ==== Sys2Proof/Machine/LaneTimers.lean ====
section
/-!
DEFINITION. The lanes' own events: OPENING_COMPARISON, HOLD_EXPIRY, AWAIT_TIMEOUT and TIME_TRIGGER. Each
is taken at the moment it is due (04_running_steps.md, R51, R53; 03, R46); at another moment the event
cannot come, and nothing changes (notes/assumptions/3.md).
-/

namespace Sys2Proof.Machine

/-- OPENING_COMPARISON (R53): the first sample after the settle window is compared. -/
def execOpeningComparison (l : LaneId) (s : State) : Host.Outcome State Fault Refusal :=
  .next (s.outsideReset fun s =>
    match (s.lane l).current with
    | some st =>
      if s.openingDue l then
        (s.setLane l { s.lane l with opened := true }).compareAt l st s.sampled
      else s
    | none => s)

/-- HOLD_EXPIRY (R68): the step timer of a DRIVE step expires. -/
def execHoldExpiry (l : LaneId) (s : State) : Host.Outcome State Fault Refusal :=
  .next (s.outsideReset fun s =>
    match (s.lane l).current with
    | some st => if (s.lane l).holdDue s.now then s.holdExpires l st else s
    | none => s)

/-- AWAIT_TIMEOUT (R59): the limit of an AWAIT step expires before a match. -/
def execAwaitTimeout (l : LaneId) (s : State) : Host.Outcome State Fault Refusal :=
  .next (s.outsideReset fun s =>
    match (s.lane l).current with
    | some st => if (s.lane l).awaitDue s.now then s.limitExpires l st else s
    | none => s)

/-- TIME_TRIGGER (R46): the timestamp has become equal to the start time of an ARMED lane. -/
def execTimeTrigger (l : LaneId) (s : State) : Host.Outcome State Fault Refusal :=
  .next (s.outsideReset fun s =>
    if (s.lane l).triggerDue s.timestamp then s.startLane l .time else s)

end Sys2Proof.Machine
end

