-- ==== Sys2Proof/Machine/LinkEvents.lean ====
section
/-!
DEFINITION. The link receiver and the reply transmitter (09_the_station_link.md): BYTE_RECEIVED,
FRAME_RECEIVED, FRAMING_ERROR, GAP_TIMEOUT, REPLY_DELAY_EXPIRY, REPLY_END and COLLISION.
-/

namespace Sys2Proof.Machine

/-- How a DEST byte addresses the station, none when it does not (R142). -/
def addressingOf (dest : Byte) (address : BitVec 5) (groups : BitVec 16) : Option Addressing :=
  if dest = 0x7F then some .broadcast
  else if 1 ≤ dest.toNat ∧ dest.toNat ≤ 31 ∧ dest.toNat = address.toNat then some .unicast
  else if h : 64 ≤ dest.toNat ∧ dest.toNat ≤ 79 then
    if groups.getLsbD (dest.toNat - 64) then some (.group ⟨dest.toNat - 64, by omega⟩) else none
  else none

/-- The CRC of a whole frame is right (R145). -/
def frameCrcOk (values : List Byte) : Bool :=
  decide (values.drop (values.length - 2) = crcBytes ((values.drop 1).take (values.length - 3)))

/-- An accepted frame (R146): the guard is restarted at its end, then the frame is queued, or dropped and
counted when the queue holds 4. -/
def State.acceptFrame (s : State) (f : Frame) : State :=
  let s' := s.restartGuard f.ended
  if s'.link.inbound.length < 4 then
    s'.setLink { s'.link with inbound := s'.link.inbound ++ [f] }
  else s'.setLink { s'.link with overrun := saturate 65535 s'.link.overrun }

/-- A frame with a right CRC is accepted or ignored by its DEST, judged by the group set at its end
(R142, R146, R158). -/
def State.judgeFrame (s : State) (frame : List RxByte) : State :=
  let v := frame.map RxByte.value
  match frame.getLast? with
  | none => s
  | some last =>
    match addressingOf (byteAt v 1) s.link.address last.groups with
    | none => s
    | some a =>
      s.acceptFrame
        { addressing := a, tag := byteAt v 4, kind := byteAt v 5,
          payload := (v.drop 6).take ((byteAt v 3).toNat - 2), ended := last.received }

/-- The receiver looks at a run of bytes from HUNT on (R143, R145): it hunts for a SYNC, discards a frame
with a LEN out of range or a wrong CRC and looks again at the bytes after its SYNC, judges a whole frame, and
keeps what is still in assembly. Each round drops at least one byte, so `fuel` above the length of the run
is enough. -/
def State.scan (s : State) (fuel : Nat) (bytes : List RxByte) : State :=
  match fuel, bytes with
  | 0, _ => s.setLink { s.link with assembly := [] }
  | _ + 1, [] => s.setLink { s.link with assembly := [] }
  | fuel + 1, b :: rest =>
    if b.value ≠ 0xC3 then s.scan fuel rest
    else
      match rest with
      | _ :: _ :: len :: _ =>
        let n := len.value.toNat
        if n < 2 ∨ 242 < n then (s.setLink s.link.countDiscard).scan fuel rest
        else if (b :: rest).length < n + 6 then
          s.setLink { s.link with assembly := b :: rest }
        else if frameCrcOk (((b :: rest).take (n + 6)).map RxByte.value) then
          (s.judgeFrame ((b :: rest).take (n + 6))).scan fuel ((b :: rest).drop (n + 6))
        else (s.setLink s.link.countDiscard).scan fuel rest
      | _ => s.setLink { s.link with assembly := b :: rest }

/-- A gap that had passed 4 character times when the character began has discarded the frame in assembly
(R144). -/
def State.endGap (s : State) (began : Moment) : State :=
  if s.link.gapPassed began then s.setLink s.link.discardAssembly else s

/-- A character arrives (R143): it is looked at unless the transmitter drives the line or released it after
the character began (R147). -/
def State.receiveByte (s : State) (b : Byte) (began : Moment) : State :=
  if s.link.listens began then
    let s' := s.endGap began
    let bytes := s'.link.assembly ++ [{ value := b, received := s'.now, groups := s'.link.groups }]
    s'.scan (bytes.length + 1) bytes
  else s

/-- The transmitter lets go of the line (R154, R155): the reply slot is empty, the receiver hunts from the
next byte that begins, and the reset that a RESTART asked for begins (R172). -/
def State.releaseLine (s : State) : State :=
  match s.link.slot with
  | none => s
  | some x =>
    let s' := s.setLink { s.link with slot := none, listenFrom := s.now }
    if x.restart then s'.beginReset .request else s'

/-- BYTE_RECEIVED (R143). -/
def execByteReceived (b : Byte) (began : Moment) (s : State) : Host.Outcome State Fault Refusal :=
  .next (s.outsideReset fun s => s.receiveByte b began)

/-- FRAME_RECEIVED (R146): the byte is the second CRC byte of the frame in assembly, and the frame is
judged. -/
def execFrameReceived (b : Byte) (began : Moment) (s : State) : Host.Outcome State Fault Refusal :=
  .next (s.outsideReset fun s => if s.link.awaitsLast then s.receiveByte b began else s)

/-- FRAMING_ERROR (R143): passed over in HUNT; in HEADER, BODY or CHECK the frame in assembly is discarded
and counted. -/
def execFramingError (began : Moment) (s : State) : Host.Outcome State Fault Refusal :=
  .next (s.outsideReset fun s =>
    if s.link.listens began then s.setLink s.link.discardAssembly else s)

/-- GAP_TIMEOUT (R144): the gap inside a frame has passed 4 character times; the frame is discarded and
counted. -/
def execGapTimeout (s : State) : Host.Outcome State Fault Refusal :=
  .next (s.outsideReset fun s =>
    if s.link.gapPassed s.now then s.setLink s.link.discardAssembly else s)

/-- REPLY_DELAY_EXPIRY (R154): the transmitter begins to send; a frame in assembly is discarded and counted
(R147). -/
def execReplyDelayExpiry (s : State) : Host.Outcome State Fault Refusal :=
  .next (s.outsideReset fun s =>
    match s.link.slot with
    | some x =>
      if s.link.replyDue s.now then
        s.setLink { s.link.discardAssembly with slot := some { x with sendingSince := some s.now } }
      else s
    | none => s)

/-- REPLY_END (R154): the last stop bit of the reply. -/
def execReplyEnd (s : State) : Host.Outcome State Fault Refusal :=
  .next (s.outsideReset fun s => if s.link.replyOver s.now then s.releaseLine else s)

/-- COLLISION (R155): a byte reads back different from the byte sent; the reply is abandoned and counted,
and stays in the unicast repeat store. -/
def execCollision (index : Nat) (back : Byte) (s : State) : Host.Outcome State Fault Refusal :=
  .next (s.outsideReset fun s =>
    if s.link.readsBackWrong s.now index back then
      (s.setLink { s.link with collision := saturate 65535 s.link.collision }).releaseLine
    else s)

end Sys2Proof.Machine
end

