-- ==== Sys2Proof/Machine/Decoder.lean ====
section
/-!
DEFINITION. The request decoder (09_the_station_link.md, R148 to R153): taking the oldest frame of the
inbound queue, the repeat stores, the checks of kind, addressing and length, execution, and the building
of the reply. BAD_KIND stands here; the requests of the other files are handlers that this step calls.
-/

namespace Sys2Proof.Machine

/-- What a block does with a request: the state it leaves, and the reply payload, status first (R152). -/
abbrev Handler := Frame → State → State × List Byte

/-- The reply to a unicast frame with a payload (R153): the frame's TAG, its KIND plus 0x80. -/
def replyTo (f : Frame) (payload : List Byte) : Reply :=
  { tag := f.tag, kind := f.kind + 0x80, payload := payload }

/-- The reply is put into the reply slot and, with the frame's TAG and KIND, into the unicast repeat store
(R148, R152). `restart` says that a full reset follows its end (R172). -/
def State.answer (s : State) (f : Frame) (restart : Bool) (payload : List Byte) : State :=
  s.setLink
    { s.link with
      slot := some { reply := replyTo f payload, requestEnd := f.ended, sendingSince := none,
                     restart := restart }
      unicastStore := some { tag := f.tag, kind := f.kind, reply := replyTo f payload } }

/-- The stored reply that a unicast frame repeats, none when it is no repeat (R149). -/
def Link.repeatedReply (k : Link) (f : Frame) : Option Reply :=
  match k.unicastStore with
  | some x => if f.tag ≠ 0 ∧ f.tag = x.tag ∧ f.kind = x.kind then some x.reply else none
  | none => none

/-- A repeat is answered from the store and counted (R149); the store stays as it is. -/
def State.answerRepeat (s : State) (f : Frame) (r : Reply) : State :=
  s.setLink
    { s.link with
      slot := some { reply := r, requestEnd := f.ended, sendingSince := none, restart := false }
      repeats := saturate 65535 s.link.repeats }

/-- A group or broadcast frame repeats the last one executed (R150). -/
def Link.repeatsGroup (k : Link) (f : Frame) : Bool :=
  decide (f.tag ≠ 0) && decide (k.groupStore = some (f.tag, f.kind))

/-- A group repeat is discarded and counted (R150). -/
def State.discardRepeat (s : State) : State :=
  s.setLink { s.link with repeats := saturate 65535 s.link.repeats }

/-- A group frame that reached execution leaves its TAG and KIND in the group repeat store (R152). -/
def State.storeGroup (s : State) (f : Frame) : State :=
  s.setLink { s.link with groupStore := some (f.tag, f.kind) }

/-- A unicast frame of a request goes through the steps of FIGURE 3 (R149, R151, R152). -/
def State.takeUnicast (s : State) (r : Request) (h : Handler) (f : Frame) : State :=
  match s.link.repeatedReply f with
  | some stored => s.answerRepeat f stored
  | none =>
    if r.lengthOk f.payload.length then
      ((h f s).1).answer f (decide (r = .restart)) (h f s).2
    else s.answer f false (statusAlone .badLength)

/-- A group or broadcast frame of a request goes through the steps of FIGURE 3 (R150, R151, R152): no
reply in any case. -/
def State.takeGroup (s : State) (r : Request) (h : Handler) (f : Frame) : State :=
  if s.link.repeatsGroup f then s.discardRepeat
  else if r.groupAllowed && r.lengthOk f.payload.length then ((h f s).1).storeGroup f
  else s

/-- A frame of a request goes through the steps of FIGURE 3. -/
def State.takeFrame (s : State) (r : Request) (h : Handler) (f : Frame) : State :=
  match f.addressing with
  | .unicast => s.takeUnicast r h f
  | .group _ => s.takeGroup r h f
  | .broadcast => s.takeGroup r h f

/-- The frame the decoder takes next: the oldest of the queue, when the reply slot is empty (R148). -/
def Link.nextFrame (k : Link) : Option (Frame × List Frame) :=
  match k.slot, k.inbound with
  | none, f :: rest => some (f, rest)
  | _, _ => none

/-- The queue without the frame taken (R148). -/
def State.popInbound (s : State) (rest : List Frame) : State :=
  s.setLink { s.link with inbound := rest }

/-- The decoder's whole step on a frame of kind `r` (R148): it comes only when that frame is the oldest of
the queue and the reply slot is empty (notes/assumptions/3.md). -/
def decoderStep (r : Request) (h : Handler) (s : State) : State :=
  s.outsideReset fun s =>
    match s.link.nextFrame with
    | some (f, rest) => if f.kind = r.code then (s.popInbound rest).takeFrame r h f else s
    | none => s

/-- A frame whose KIND is no request code (R151): a unicast frame is answered BAD_KIND, or again from the
store when it is a repeat (R149); a group frame is discarded. -/
def State.takeBadKind (s : State) (f : Frame) : State :=
  match f.addressing with
  | .unicast =>
    match s.link.repeatedReply f with
    | some stored => s.answerRepeat f stored
    | none => s.answer f false (statusAlone .badKind)
  | .group _ => if s.link.repeatsGroup f then s.discardRepeat else s
  | .broadcast => if s.link.repeatsGroup f then s.discardRepeat else s

/-- BAD_KIND (R151). -/
def execBadKind (s : State) : Host.Outcome State Fault Refusal :=
  .next (s.outsideReset fun s =>
    match s.link.nextFrame with
    | some (f, rest) => if isRequestCode f.kind then s else (s.popInbound rest).takeBadKind f
    | none => s)

end Sys2Proof.Machine
end

