-- ==== Sys2Proof/Machine/LinkRequests.lean ====
section
/-!
DEFINITION. The requests to the link blocks (09_the_station_link.md, R156 to R159): IDENTIFY, SET_LINK,
JOIN_GROUPS and LINK_STATUS.
-/

namespace Sys2Proof.Machine

/-- The fields of an IDENTIFY reply (R156, R177). -/
def identifyFields (k : Link) : List Byte :=
  [byteOf Config.vendor] ++ leBytes 2 Config.part
    ++ [byteOf Config.revision, k.address.setWidth 8, k.rate.setWidth 8, 40, 4, 8]
    ++ leBytes 2 2048 ++ leBytes 2 512 ++ [4, 24]

def onIdentify : Handler := fun _ s => (s, okFields (identifyFields s.link))

/-- IDENTIFY (R156): changes nothing and returns identity and capacities. -/
def execIdentify (s : State) : Host.Outcome State Fault Refusal :=
  .next (decoderStep .identify onIdentify s)

def onSetLink : Handler := fun f s =>
  (s.setLink { s.link with replyDelay := byteAt f.payload 0 }, okFields [byteAt f.payload 0])

/-- SET_LINK (R157): replaces the reply delay; it holds for this reply already. -/
def execSetLink (s : State) : Host.Outcome State Fault Refusal :=
  .next (decoderStep .setLink onSetLink s)

/-- The position of the first group number at fault: above 15, or equal to an earlier one (R158). -/
def groupFault (numbers : List Byte) : Option Nat :=
  (List.range numbers.length).find? fun i =>
    decide (15 < (byteAt numbers i).toNat) || (numbers.take i).contains (byteAt numbers i)

/-- The group mask of a list of group numbers, bit n standing for Gn (R158). -/
def groupMask (numbers : List Byte) : BitVec 16 :=
  numbers.foldl (fun m g => m ||| (1#16 <<< g.toNat)) 0

def onJoinGroups : Handler := fun f s =>
  match groupFault f.payload with
  | some i => (s, detail1 .badField i)
  | none =>
    (s.setLink { s.link with groups := groupMask f.payload },
     okFields (leBytes 2 (groupMask f.payload).toNat))

/-- JOIN_GROUPS (R158): replaces the group set with 0 to 4 distinct group numbers. -/
def execJoinGroups (s : State) : Host.Outcome State Fault Refusal :=
  .next (decoderStep .joinGroups onJoinGroups s)

/-- The four link counts in the order of the reply (R159, R177). -/
def countFields (k : Link) : List Byte :=
  leBytes 2 k.discarded ++ leBytes 2 k.overrun ++ leBytes 2 k.collision ++ leBytes 2 k.repeats

/-- The link with its counts set to 0 (R159). -/
def Link.clearCounts (k : Link) : Link :=
  { k with discarded := 0, overrun := 0, collision := 0, repeats := 0 }

def onLinkStatus : Handler := fun f s =>
  if byteAt f.payload 0 = 0 then (s, okFields (countFields s.link))
  else if byteAt f.payload 0 = 1 then
    (s.setLink s.link.clearCounts, okFields (countFields s.link))
  else (s, statusAlone .badField)

/-- LINK_STATUS (R159): returns the four counts, and clears them after reading when the flag is 1. -/
def execLinkStatus (s : State) : Host.Outcome State Fault Refusal :=
  .next (decoderStep .linkStatus onLinkStatus s)

end Sys2Proof.Machine
end

