-- ==== Sys2Proof/Machine/StationRequests.lean ====
section
/-!
DEFINITION. The requests to station control (10_time_guard_and_restarts.md): READ_TIME, SET_TIME,
SET_GUARD, RESTART and CLEAR.
-/

namespace Sys2Proof.Machine

/-- The microseconds between the end of a frame and now (R163, R164). -/
def State.elapsedSince (s : State) (f : Frame) : BitVec 32 := BitVec.ofNat 32 (s.now - f.ended)

def onReadTime : Handler := fun f s =>
  (s, okFields (wordBytes s.timestamp ++ wordBytes (s.timestamp - s.elapsedSince f)))

/-- READ_TIME (R163): the timestamp at execution, and the one of the frame's end. -/
def execReadTime (s : State) : Host.Outcome State Fault Refusal :=
  .next (decoderStep .readTime onReadTime s)

/-- A lane judges its armed time trigger anew after a SET_TIME, with the number fired so far (R165,
R93). -/
def judgeTrigger (acc : State × Nat) (l : LaneId) : State × Nat :=
  let x := acc.1.lane l
  if x.state = .armed ∧ x.triggerArmed = true ∧ atOrBefore x.startTime acc.1.timestamp = true then
    (acc.1.startLane l .time, acc.2 + 1)
  else acc

/-- A watch judges its running holdoff anew after a SET_TIME (R108). -/
def State.judgeHoldoff (s : State) (w : WatchId) : State :=
  match (s.watch w).holdoffEnd with
  | some e =>
    if atOrBefore e s.timestamp then s.setWatch w { s.watch w with holdoffEnd := none } else s
  | none => s

/-- The time triggers judged anew, lane 0 first (R165). -/
def State.judgeTriggers (s : State) : State × Nat := laneIds.foldl judgeTrigger (s, 0)

def onSetTime : Handler := fun f s =>
  let loaded := wordAt f.payload 0 + s.elapsedSince f
  let fired := State.judgeTriggers { s with timestamp := loaded }
  (watchIds.foldl State.judgeHoldoff fired.1, okFields (wordBytes loaded ++ [byteOf fired.2]))

/-- SET_TIME (R164, R165): loads T plus the time since the frame's end, and has triggers and holdoffs
judged anew. -/
def execSetTime (s : State) : Host.Outcome State Fault Refusal :=
  .next (decoderStep .setTime onSetTime s)

/-- The guard under a new period (R166): off for 0, else started anew now. -/
def guardFor (period : BitVec 16) (now : Moment) : GuardState :=
  if period = 0 then .off else .running now

def onSetGuard : Handler := fun f s =>
  let period : BitVec 16 := BitVec.ofNat 16 (fieldAt f.payload 0 2)
  ({ s with guardPeriod := period, guard := guardFor period s.now },
   okFields (leBytes 2 period.toNat))

/-- SET_GUARD (R166): replaces the guard period and starts the timer anew, or turns the guard off. -/
def execSetGuard (s : State) : Host.Outcome State Fault Refusal :=
  .next (decoderStep .setGuard onSetGuard s)

def onRestart : Handler := fun _ s => (s, statusAlone .ok)

/-- RESTART (R172): answered OK; the full reset follows the end of that reply (`State.releaseLine`). -/
def execRestart (s : State) : Host.Outcome State Fault Refusal :=
  .next (decoderStep .restart onRestart s)

/-- How many lanes are not IDLE. -/
def State.lanesBusy (s : State) : Nat := laneIds.countP fun l => decide ((s.lane l).state ≠ .idle)

/-- The station cleared as one change (R173): lanes, references, claims, watches, ring and notices emptied;
steps, link, clock, guard, ring settings, serials and mask kept. -/
def State.cleared (s : State) : State :=
  { s with
    refs := Vector.replicate 128 0
    claims := Vector.replicate 40 .free
    lanes := Vector.replicate 4 Lane.cleared
    watches := Vector.replicate 8 Watch.cleared
    ring := { s.ring with records := [] }
    notices := { s.notices with entries := [] } }

def onClear : Handler := fun _ s => (s.cleared, okFields [byteOf s.lanesBusy])

/-- CLEAR (R173). -/
def execClear (s : State) : Host.Outcome State Fault Refusal :=
  .next (decoderStep .clear onClear s)

end Sys2Proof.Machine
end

