-- ==== Sys2Proof/Machine/StoreRequests.lean ====
section
/-!
DEFINITION. The requests to the step store (01_step_store.md): STORE_STEPS, ERASE_STEPS, READ_STEPS and
PAGE_STATUS.
-/

namespace Sys2Proof.Machine

/-- The 18-byte records of a STORE_STEPS payload, each read as a step or invalid (R10, R180). -/
def recordsOf (p : List Byte) : List (Option StepRecord) :=
  (List.range ((p.length - 2) / 18)).map fun i => parseStep ((p.drop (2 + 18 * i)).take 18)

def onStoreSteps : Handler := fun f s =>
  let first := fieldAt f.payload 0 2
  let records := recordsOf f.payload
  if 2047 < first ∨ 2048 < first + records.length then (s, detail2 .badField 0xFFFF)
  else
    match records.findIdx? Option.isNone with
    | some i => (s, detail2 .badField i)
    | none =>
      match s.lockedPage first records.length with
      | some p => (s, detail2 .pageInUse p)
      | none =>
        (s.setSlots (Sparse.putRun s.slots first (records.filterMap id)),
         detail2 .ok records.length)

/-- STORE_STEPS (R10, R11): writes a run of step records, all or nothing. -/
def execStoreSteps (s : State) : Host.Outcome State Fault Refusal :=
  .next (decoderStep .storeSteps onStoreSteps s)

def onEraseSteps : Handler := fun f s =>
  let first := fieldAt f.payload 0 2
  let n := fieldAt f.payload 2 2
  if 2047 < first ∨ n = 0 ∨ 2048 < first + n then (s, detail2 .badField 0xFFFF)
  else
    match s.lockedPage first n with
    | some p => (s, detail2 .pageInUse p)
    | none => (s.setSlots (Sparse.eraseRun s.slots first n), detail2 .ok n)

/-- ERASE_STEPS (R12): makes a run of slots EMPTY, all or nothing. -/
def execEraseSteps (s : State) : Host.Outcome State Fault Refusal :=
  .next (decoderStep .eraseSteps onEraseSteps s)

def onReadSteps : Handler := fun f s =>
  let first := fieldAt f.payload 0 2
  let n := (byteAt f.payload 2).toNat
  if 2047 < first ∨ n = 0 ∨ 12 < n ∨ 2048 < first + n then (s, statusAlone .badField)
  else
    (s, okFields (leBytes 2 first ++ [byteOf n]
      ++ (List.range' first n).flatMap fun k => stepBytes (s.slot k)))

/-- READ_STEPS (R13): returns 1 to 12 slots in slot order. -/
def execReadSteps (s : State) : Host.Outcome State Fault Refusal :=
  .next (decoderStep .readSteps onReadSteps s)

/-- The PAGE_STATUS entry of a page: the count in bits 0 to 2, the filled flag in bit 7 (R177). -/
def State.pageByte (s : State) (p : Nat) : Byte :=
  byteOf (s.refCount p % 8 + if s.filled p then 128 else 0)

def onPageStatus : Handler := fun f s =>
  let first := (byteAt f.payload 0).toNat
  let n := (byteAt f.payload 1).toNat
  if 127 < first ∨ n = 0 ∨ 128 < n ∨ 128 < first + n then (s, statusAlone .badField)
  else (s, okFields ([byteOf first, byteOf n] ++ (List.range' first n).map s.pageByte))

/-- PAGE_STATUS (R14): the reference count and the filled flag of each page of a range. -/
def execPageStatus (s : State) : Host.Outcome State Fault Refusal :=
  .next (decoderStep .pageStatus onPageStatus s)

end Sys2Proof.Machine
end

