-- ==== Sys2Proof/Machine/LineRequests.lean ====
section
/-!
DEFINITION. The requests to the line unit (02_lines_and_claims.md): CLAIM_LINES, RELEASE_LINES and
READ_LINES.
-/

namespace Sys2Proof.Machine

def onClaimLines : Handler := fun f s =>
  let drive := linesAt f.payload 1
  let sense := linesAt f.payload 6
  let rest := linesAt f.payload 11
  match laneOf (byteAt f.payload 0) with
  | none => (s, detail1 .badField 0xFF)
  | some l =>
    if (s.lane l).state ≠ .idle then (s, detail1 .wrongState 0xFF)
    else
      match lowestLine (drive &&& sense) with
      | some n => (s, detail1 .badField n)
      | none =>
        match lowestLine ((drive ||| sense) &&& s.takenByOthers l) with
        | some n => (s, detail1 .lineTaken n)
        | none => (s.claimFor l drive sense rest, detail1 .ok (lineCount (drive ||| sense)))

/-- CLAIM_LINES (R25, R26): replaces the claim of an IDLE lane. -/
def execClaimLines (s : State) : Host.Outcome State Fault Refusal :=
  .next (decoderStep .claimLines onClaimLines s)

def onReleaseLines : Handler := fun f s =>
  match laneOf (byteAt f.payload 0) with
  | none => (s, detail1 .badField 0xFF)
  | some l =>
    if (s.lane l).state ≠ .idle then (s, detail1 .wrongState 0xFF)
    else (s.claimFor l 0 0 0, detail1 .ok (lineCount (s.ownedBy l)))

/-- RELEASE_LINES (R27): frees every line of an IDLE lane. -/
def execReleaseLines (s : State) : Host.Outcome State Fault Refusal :=
  .next (decoderStep .releaseLines onReleaseLines s)

/-- The three sets of one lane in a READ_LINES reply (R28). -/
def State.claimFields (s : State) (l : LaneId) : List Byte :=
  linesBytes (s.driveSet l) ++ linesBytes (s.senseSet l) ++ linesBytes (s.restValue l)

def onReadLines : Handler := fun _ s =>
  (s, okFields (linesBytes s.sampled ++ linesBytes s.driven ++ laneIds.flatMap s.claimFields))

/-- READ_LINES (R28): the sampled state, the driven set and every lane's claim. -/
def execReadLines (s : State) : Host.Outcome State Fault Refusal :=
  .next (decoderStep .readLines onReadLines s)

end Sys2Proof.Machine
end

