-- ==== Sys2Proof/Machine/ListRequests.lean ====
section
/-!
DEFINITION. The requests for segment lists, options and arming (03_segment_lists_and_arming.md):
SET_SEGMENTS, READ_SEGMENTS, SET_LANE and ARM.
-/

namespace Sys2Proof.Machine

/-- The 7-byte entries of a SET_SEGMENTS payload, each read or failing on a field (R34, R180). -/
def entriesOf (p : List Byte) : List (Option SegmentEntry) :=
  (List.range ((p.length - 1) / 7)).map fun i => parseEntry ((p.drop (1 + 7 * i)).take 7)

/-- Entry `i` of `n` fits the list of lane `l`: no cue to the lane itself, END on the last entry only
(R34, check 4). -/
def SegmentEntry.fits (e : SegmentEntry) (l : LaneId) (i n : Nat) : Bool :=
  e.fieldsOk && decide (e.cue ≠ some l) && (!e.isEnd || decide (i + 1 = n))

/-- The first entry that fails the fourth check of R34. -/
def entryFault (l : LaneId) (entries : List (Option SegmentEntry)) : Option Nat :=
  (List.range entries.length).find? fun i =>
    match entries.getD i none with
    | none => true
    | some e => !e.fits l i entries.length

/-- END is set on the last entry (R34, check 5). -/
def endsWell (list : List SegmentEntry) : Bool :=
  match list.getLast? with
  | some e => e.isEnd
  | none => false

/-- A segment list is valid for a lane (R33). -/
def listValid (l : LaneId) (list : List SegmentEntry) : Bool :=
  decide (1 ≤ list.length ∧ list.length ≤ 24) && (entryFault l (list.map some)).isNone
    && endsWell list

def onSetSegments : Handler := fun f s =>
  let entries := entriesOf f.payload
  match laneOf (byteAt f.payload 0) with
  | none => (s, detail1 .badField 0xFF)
  | some l =>
    if (s.lane l).state ≠ .idle then (s, detail1 .wrongState 0xFF)
    else if entries.length = 0 then (s, detail1 .listInvalid 0xFF)
    else
      match entryFault l entries with
      | some i => (s, detail1 .listInvalid i)
      | none =>
        if endsWell (entries.filterMap id) then
          (s.setLane l { s.lane l with segments := entries.filterMap id },
           detail1 .ok entries.length)
        else (s, detail1 .listInvalid (entries.length - 1))

/-- SET_SEGMENTS (R34, R35): replaces the segment list of an IDLE lane. -/
def execSetSegments (s : State) : Host.Outcome State Fault Refusal :=
  .next (decoderStep .setSegments onSetSegments s)

def onReadSegments : Handler := fun f s =>
  match laneOf (byteAt f.payload 0) with
  | none => (s, statusAlone .badField)
  | some l =>
    (s, okFields ([byteOf l.val] ++ optionBytes (s.lane l).options
      ++ [byteOf (s.lane l).segments.length] ++ (s.lane l).segments.flatMap entryBytes))

/-- READ_SEGMENTS (R36): a lane's options and its list. -/
def execReadSegments (s : State) : Host.Outcome State Fault Refusal :=
  .next (decoderStep .readSegments onReadSegments s)

def onSetLane : Handler := fun f s =>
  match laneOf (byteAt f.payload 0) with
  | none => (s, detail1 .badField 0)
  | some l =>
    if (s.lane l).state ≠ .idle then (s, detail1 .wrongState 0xFF)
    else
      match parseOptions f.payload with
      | .error i => (s, detail1 .badField i)
      | .ok o => (s.setLane l { s.lane l with options := o }, detail1 .ok 0xFF)

/-- SET_LANE (R38): replaces all five options of an IDLE lane. -/
def execSetLane (s : State) : Host.Outcome State Fault Refusal :=
  .next (decoderStep .setLane onSetLane s)

/-- The start time lies 1 to 2^31 - 1 microseconds ahead of the timestamp (R40, check 6). -/
def timeAhead (start stamp : Stamp) : Bool :=
  decide (1 ≤ (start - stamp).toNat ∧ (start - stamp).toNat ≤ 2 ^ 31 - 1)

/-- TIME is in a source set (R178). -/
def hasTime (sources : BitVec 4) : Bool := sources.getLsbD 3

/-- A lane armed with a source set and a start time (R41). -/
def Lane.armedWith (x : Lane) (sources : BitVec 4) (start : Stamp) : Lane :=
  { x with
    state := .armed, sources := sources
    startTime := if hasTime sources then start else 0
    triggerArmed := hasTime sources
    passCount := 0, faultCount := 0, position := Position.none }

def onArm : Handler := fun f s =>
  let sources := byteAt f.payload 1
  let start := wordAt f.payload 2
  match laneOf (byteAt f.payload 0) with
  | none => (s, detail2 .badField 0xFFFF)
  | some l =>
    let list := (s.lane l).segments
    if (s.lane l).state ≠ .idle then (s, detail2 .wrongState 0xFFFF)
    else if listValid l list = false then (s, detail2 .listInvalid 0xFFFF)
    else
      match s.lowestEmpty list with
      | some n => (s, detail2 .listInvalid n)
      | none =>
        if sources = 0 ∨ 16 ≤ sources.toNat then (s, detail2 .badField 0xFFFF)
        else if hasTime (sources.setWidth 4) = true ∧ timeAhead start s.timestamp = false then
          (s, detail2 .late 0xFFFF)
        else
          ((s.raiseRefs list).setLane l ((s.lane l).armedWith (sources.setWidth 4) start),
           detail2 .ok (pagesTouched list))

/-- ARM (R40, R41): takes an IDLE lane to ARMED and locks its pages. -/
def execArm (s : State) : Host.Outcome State Fault Refusal :=
  .next (decoderStep .arm onArm s)

end Sys2Proof.Machine
end

