-- ==== Sys2Proof/Machine/LaneRequests.lean ====
section
/-!
DEFINITION. The lane-set requests START, PAUSE, RESUME, STOP and ABORT, and LANE_STATUS
(05_lane_control_in_flight.md).
-/

namespace Sys2Proof.Machine

/-- What a lane-set request does at one lane: the state it leaves and the lane's outcome. -/
abbrev LaneAct := LaneId → State → State × LaneOutcome

/-- One lane of a lane-set request, in lane order: acted on when it is in the set, NOT_NAMED otherwise
(R83). -/
def laneSetStep (set : Byte) (act : LaneAct) (acc : State × List Byte) (l : LaneId) :
    State × List Byte :=
  if set.getLsbD l.val then ((act l acc.1).1, acc.2 ++ [((act l acc.1).2).code])
  else (acc.1, acc.2 ++ [LaneOutcome.notNamed.code])

/-- A lane-set request (R83): refused when the set is empty or names no lane by a bit above 3, else acted
out on each lane of the set, lane 0 first. -/
def onLaneSet (act : LaneAct) : Handler := fun f s =>
  let set := byteAt f.payload 0
  if set = 0 ∨ 16 ≤ set.toNat then (s, statusAlone .badField)
  else
    let done := laneIds.foldl (laneSetStep set act) (s, [])
    (done.1, okFields (set :: done.2))

/-- START at a lane (R84). -/
def startAct : LaneAct := fun l s =>
  match (s.lane l).state with
  | .armed =>
    if (s.lane l).hasSource .request then (s.startLane l .request, .started) else (s, .refused)
  | .idle => (s, .refused)
  | .running => (s.setLane l (s.lane l).queueRestart, .queued)
  | .paused => (s.setLane l (s.lane l).queueRestart, .queued)
  | .halted => (s.setLane l (s.lane l).queueRestart, .queued)

/-- START (R84, R43). -/
def execStart (s : State) : Host.Outcome State Fault Refusal :=
  .next (decoderStep .start (onLaneSet startAct) s)

/-- PAUSE at a lane (R85). -/
def pauseAct : LaneAct := fun l s =>
  match (s.lane l).state with
  | .running => (s.askPause l, .pending)
  | .idle => (s, .noEffect)
  | .armed => (s, .noEffect)
  | .paused => (s, .noEffect)
  | .halted => (s, .noEffect)

/-- PAUSE (R85). -/
def execPause (s : State) : Host.Outcome State Fault Refusal :=
  .next (decoderStep .pause (onLaneSet pauseAct) s)

/-- RESUME at a lane (R86 to R88). -/
def resumeAct : LaneAct := fun l s =>
  match (s.lane l).state with
  | .paused => (s.resumeLane l, .resumed)
  | .halted => (s.resumeLane l, .resumed)
  | .running =>
    if (s.lane l).pausePending then (s.setLane l (s.lane l).cancelPause, .cancelled)
    else (s, .noEffect)
  | .idle => (s, .noEffect)
  | .armed => (s, .noEffect)

/-- RESUME (R86, R87, R88). -/
def execResume (s : State) : Host.Outcome State Fault Refusal :=
  .next (decoderStep .resume (onLaneSet resumeAct) s)

/-- STOP at a lane (R89). -/
def stopAct : LaneAct := fun l s =>
  match (s.lane l).state with
  | .running => (s.setLane l (s.lane l).askStop, .set)
  | .paused => (s.setLane l (s.lane l).askStop, .set)
  | .halted => (s.setLane l (s.lane l).askStop, .set)
  | .idle => (s, .noEffect)
  | .armed => (s, .noEffect)

/-- STOP (R89). -/
def execStop (s : State) : Host.Outcome State Fault Refusal :=
  .next (decoderStep .stop (onLaneSet stopAct) s)

/-- ABORT at a lane (R90). -/
def abortAct : LaneAct := fun l s =>
  match (s.lane l).state with
  | .idle => (s, .noEffect)
  | .armed => (s.abortLane l .abortedRequest, .aborted)
  | .running => (s.abortLane l .abortedRequest, .aborted)
  | .paused => (s.abortLane l .abortedRequest, .aborted)
  | .halted => (s.abortLane l .abortedRequest, .aborted)

/-- ABORT (R90). -/
def execAbort (s : State) : Host.Outcome State Fault Refusal :=
  .next (decoderStep .abort (onLaneSet abortAct) s)

/-- The LANE_STATUS flags byte: pause-pending, restart-pending, stop-requested (R177). -/
def Lane.flagsByte (x : Lane) : Byte :=
  byteOf ((if x.pausePending then 1 else 0) + (if x.restartPending then 2 else 0)
    + (if x.stopRequested then 4 else 0))

/-- The fields of a LANE_STATUS reply (R91, R177). -/
def statusFields (l : LaneId) (x : Lane) (now : Moment) : List Byte :=
  [byteOf l.val, x.state.code, x.flagsByte] ++ positionBytes x.position
    ++ leBytes 2 (x.remaining now) ++ leBytes 2 x.passCount ++ leBytes 2 x.faultCount
    ++ [x.lastResult.code, x.resumePoint.code, x.sources.setWidth 8] ++ wordBytes x.startTime
    ++ [flagByte x.triggerArmed] ++ sourceBytes x.runSource

def onLaneStatus : Handler := fun f s =>
  match laneOf (byteAt f.payload 0) with
  | none => (s, statusAlone .badField)
  | some l => (s, okFields (statusFields l (s.lane l) s.now))

/-- LANE_STATUS (R91): everything the lane engine holds of its run. -/
def execLaneStatus (s : State) : Host.Outcome State Fault Refusal :=
  .next (decoderStep .laneStatus onLaneStatus s)

end Sys2Proof.Machine
end

