-- ==== Sys2Proof/Machine/WatchRequests.lean ====
section
/-!
DEFINITION. The requests to the watch unit (06_watches.md): SET_WATCH, ENABLE_WATCHES and WATCH_STATUS.
-/

namespace Sys2Proof.Machine

/-- A watch with a new definition: DISABLED, hit count 0, holdoff stopped (R109). -/
def Watch.defined (d : WatchDef) : Watch :=
  { state := .disabled, defn := some d, hits := 0, holdoffEnd := none }

def onSetWatch : Handler := fun f s =>
  match watchOf (byteAt f.payload 0) with
  | none => (s, detail1 .badField 0xFF)
  | some w =>
    match parseWatch (f.payload.drop 1) with
    | .error n => (s, detail1 .badField n)
    | .ok d => (s.setWatch w (Watch.defined d), detail1 .ok w.val)

/-- SET_WATCH (R109): replaces a watch's definition and leaves it DISABLED. -/
def execSetWatch (s : State) : Host.Outcome State Fault Refusal :=
  .next (decoderStep .setWatch onSetWatch s)

/-- ENABLE_WATCHES at one watch (R110, FIGURE 6). -/
def enableAct (enable : Bool) (x : Watch) : Watch × WatchOutcome :=
  match x.state with
  | .undefined => (x, .undefined)
  | .disabled =>
    if enable then ({ x with state := .enabled }, .enabled) else (x, .disabled)
  | .enabled =>
    if enable then (x, .enabled) else ({ x with state := .disabled }, .disabled)
  | .spent =>
    if enable then ({ x with state := .enabled }, .enabled)
    else ({ x with state := .disabled }, .disabled)

/-- One watch of an ENABLE_WATCHES request, in watch order (R110). -/
def enableStep (set : Byte) (enable : Bool) (acc : State × List Byte) (w : WatchId) :
    State × List Byte :=
  if set.getLsbD w.val then
    (acc.1.setWatch w (enableAct enable (acc.1.watch w)).1,
     acc.2 ++ [((enableAct enable (acc.1.watch w)).2).code])
  else (acc.1, acc.2 ++ [WatchOutcome.notNamed.code])

def onEnableWatches : Handler := fun f s =>
  let set := byteAt f.payload 0
  match boolOf (byteAt f.payload 1) with
  | none => (s, statusAlone .badField)
  | some enable =>
    if set = 0 then (s, statusAlone .badField)
    else
      let done := watchIds.foldl (enableStep set enable) (s, [])
      (done.1, okFields (set :: done.2))

/-- ENABLE_WATCHES (R110): enables or disables each defined watch of the set. -/
def execEnableWatches (s : State) : Host.Outcome State Fault Refusal :=
  .next (decoderStep .enableWatches onEnableWatches s)

/-- The fields of one watch in a WATCH_STATUS reply (R111, R177). -/
def watchFields (x : Watch) : List Byte :=
  [x.state.code] ++ leBytes 2 x.hits ++ [flagByte x.holdoffEnd.isSome]
    ++ wordBytes (x.holdoffEnd.getD 0)

def onWatchStatus : Handler := fun _ s =>
  (s, okFields (watchIds.flatMap fun w => watchFields (s.watch w)))

/-- WATCH_STATUS (R111): state, hit count and holdoff of every watch. -/
def execWatchStatus (s : State) : Host.Outcome State Fault Refusal :=
  .next (decoderStep .watchStatus onWatchStatus s)

end Sys2Proof.Machine
end

