-- ==== Sys2Proof/Machine/RingRequests.lean ====
section
/-!
DEFINITION. The requests to the capture ring (07_capture_ring.md): SET_RING, READ_RING and TRIM_RING.
-/

namespace Sys2Proof.Machine

/-- The policy of its byte, none for an unassigned code (R178). -/
def RingPolicy.ofCode (b : Byte) : Option RingPolicy :=
  if b = 0 then some .keepOldest else if b = 1 then some .keepNewest else none

def onSetRing : Handler := fun f s =>
  let threshold := fieldAt f.payload 1 2
  match RingPolicy.ofCode (byteAt f.payload 0) with
  | none => (s, detail1 .badField 1)
  | some policy =>
    if threshold = 0 ∨ 512 < threshold then (s, detail1 .badField 2)
    else
      (s.setRing { s.ring with policy := policy, threshold := threshold },
       detail1 .ok 0 ++ [policy.code] ++ leBytes 2 threshold
         ++ leBytes 2 s.ring.records.length ++ wordBytes s.ring.nextSerial)

/-- SET_RING (R123): replaces policy and threshold, and returns the fill and the next serial. -/
def execSetRing (s : State) : Host.Outcome State Fault Refusal :=
  .next (decoderStep .setRing onSetRing s)

/-- The stored records from the first one a read returns (R124): all of them, or those from the first whose
serial is after `after`. -/
def Ring.readFrom (r : Ring) (after : Option Serial) : List CaptureRecord :=
  match after with
  | none => r.records
  | some a => r.records.dropWhile fun x => atOrBefore x.serial a

/-- The start of a READ_RING: oldest (none) or after a serial; outer none for an unassigned code
(R124, R178). -/
def readStart (mode : Byte) (serial : Serial) : Option (Option Serial) :=
  if mode = 0 then some none else if mode = 1 then some (some serial) else none

def onReadRing : Handler := fun f s =>
  let n := (byteAt f.payload 5).toNat
  match readStart (byteAt f.payload 0) (wordAt f.payload 1) with
  | none => (s, statusAlone .badField)
  | some after =>
    if n = 0 ∨ 9 < n then (s, statusAlone .badField)
    else
      let from_ := s.ring.readFrom after
      (s, okFields (leBytes 2 s.ring.records.length
        ++ [byteOf (from_.take n).length, flagByte (decide (n < from_.length))]
        ++ (from_.take n).flatMap recordBytes))

/-- READ_RING (R124): returns up to 9 stored records without removing any. -/
def execReadRing (s : State) : Host.Outcome State Fault Refusal :=
  .next (decoderStep .readRing onReadRing s)

/-- The ring after a trim through a serial (R125). -/
def Ring.trim (r : Ring) (serial : Serial) : Ring :=
  { r with records := r.records.dropWhile fun x => atOrBefore x.serial serial }

def onTrimRing : Handler := fun f s =>
  let r := s.ring.trim (wordAt f.payload 0)
  (s.setRing r,
   okFields (leBytes 2 (s.ring.records.length - r.records.length) ++ leBytes 2 r.records.length
     ++ wordBytes r.nextSerial))

/-- TRIM_RING (R125): removes from the oldest end the records at or before a serial. -/
def execTrimRing (s : State) : Host.Outcome State Fault Refusal :=
  .next (decoderStep .trimRing onTrimRing s)

end Sys2Proof.Machine
end

