-- ==== Sys2Proof/Machine/NoticeRequests.lean ====
section
/-!
DEFINITION. The requests to the notice set (08_notices_and_the_attention_line.md): SET_NOTICE_MASK and
POLL.
-/

namespace Sys2Proof.Machine

/-- The notice set under a new mask: the bit of STATION_RESTARTED set, the entries of disabled kinds
removed (R134). -/
def NoticeSet.withMask (n : NoticeSet) (mask : BitVec 16) : NoticeSet :=
  let m := { n with mask := mask ||| 0x0800#16 }
  { m with entries := n.entries.filter fun e => m.records e.key }

def onSetNoticeMask : Handler := fun f s =>
  let asked := fieldAt f.payload 0 2
  if 4096 ≤ asked then (s, statusAlone .badField)
  else
    let n := s.notices.withMask (BitVec.ofNat 16 asked)
    (s.setNotices n,
     okFields ([byteOf (s.notices.entries.length - n.entries.length)] ++ leBytes 2 n.mask.toNat))

/-- SET_NOTICE_MASK (R134): replaces the mask and removes the entries it disables. -/
def execSetNoticeMask (s : State) : Host.Outcome State Fault Refusal :=
  .next (decoderStep .setNoticeMask onSetNoticeMask s)

/-- The entries an acknowledgment leaves: all but the reported ones at or before the serial (R135). -/
def NoticeSet.acknowledge (n : NoticeSet) (a : Serial) : NoticeSet :=
  { n with entries := n.entries.filter fun e => !(e.reported && atOrBefore e.serial a) }

/-- A listed entry is marked reported (R136). -/
def NoticeEntry.markReported (e : NoticeEntry) : NoticeEntry := { e with reported := true }

/-- The set after the 12 oldest entries have been listed (R136). -/
def NoticeSet.list (n : NoticeSet) : NoticeSet :=
  { n with entries := (n.entries.take 12).map NoticeEntry.markReported ++ n.entries.drop 12 }

/-- The fields of a POLL reply: entries removed, held, listed, MORE, and the entries (R136). -/
def pollFields (removed : Nat) (n : NoticeSet) : List Byte :=
  [byteOf removed, byteOf n.entries.length, byteOf (n.entries.take 12).length,
   flagByte (decide (12 < n.entries.length))] ++ (n.entries.take 12).flatMap noticeBytes

def onPoll : Handler := fun f s =>
  match boolOf (byteAt f.payload 4) with
  | none => (s, statusAlone .badField)
  | some valid =>
    let n := if valid then s.notices.acknowledge (wordAt f.payload 0) else s.notices
    (s.setNotices n.list,
     okFields (pollFields (s.notices.entries.length - n.entries.length) n))

/-- POLL (R135, R136): removes what is acknowledged, then lists and marks up to 12 entries. -/
def execPoll (s : State) : Host.Outcome State Fault Refusal :=
  .next (decoderStep .poll onPoll s)

end Sys2Proof.Machine
end

