-- ==== Sys2Proof/Machine/StationEvents.lean ====
section
/-!
DEFINITION. The events of station control (10_time_guard_and_restarts.md): GUARD_EXPIRY, POWER_RESET,
RESET_PIN and FULL_RESET_END.
-/

namespace Sys2Proof.Machine

/-- The guard expiry: EXPIRED, every lane that is not IDLE aborted in lane order, then the GUARD record and
GUARD_EXPIRED with the number of lanes aborted (R168). -/
def State.expireGuard (s : State) : State :=
  let n := s.lanesBusy
  let s' := laneIds.foldl (fun s l => s.abortLane l .abortedGuard) (s.setGuard .expired)
  (s'.takeRecord (.guard n)).raise .guardExpired (.lanes n)

/-- GUARD_EXPIRY (R168). -/
def execGuardExpiry (s : State) : Host.Outcome State Fault Refusal :=
  .next (s.outsideReset fun s => if s.guardDue then s.expireGuard else s)

/-- POWER_RESET (R170). -/
def execPowerReset (s : State) : Host.Outcome State Fault Refusal := .next (s.beginReset .power)

/-- RESET_PIN (R170). -/
def execResetPin (s : State) : Host.Outcome State Fault Refusal := .next (s.beginReset .pin)

/-- The station at the end of a full reset with a cause (R171): every block at its reset values, the straps
read, the first sample taken of lines that no driver drives, the timestamp 0, and STATION_RESTARTED recorded. -/
def State.afterReset (s : State) (cause : ResetCause) (adr : BitVec 5) (spd : BitVec 2)
    (outside : Outside) : State :=
  State.raise
    { State.blank with
      pending := s.pending, now := s.now, freeIx := s.freeIx
      link := { Link.cleared with address := adr, rate := spd, listenFrom := s.now }
      outside := outside
      sampled := standingLevels outside 0 0, sampleAt := s.now }
    .stationRestarted (.cause cause)

/-- FULL_RESET_END (R171): the end of the reset in progress; without one it cannot come. -/
def execFullResetEnd (adr : BitVec 5) (spd : BitVec 2) (outside : Outside) (s : State) :
    Host.Outcome State Fault Refusal :=
  .next (match s.resetting with
    | some cause => s.afterReset cause adr spd outside
    | none => s)

end Sys2Proof.Machine
end

