-- ==== Sys2Proof/Machine/Dispatch.lean ====
section
/-!
DEFINITION. The dispatch: one arm per command, each one call of its meaning.
-/

namespace Sys2Proof.Machine

def exec (i : Instr) (s : State) : Host.Outcome State Fault Refusal :=
  match i with
  | .frameReceived b began => Sys2Proof.Machine.execFrameReceived b began s
  | .framingError began => Sys2Proof.Machine.execFramingError began s
  | .gapTimeout => Sys2Proof.Machine.execGapTimeout s
  | .badKind => Sys2Proof.Machine.execBadKind s
  | .replyDelayExpiry => Sys2Proof.Machine.execReplyDelayExpiry s
  | .replyEnd => Sys2Proof.Machine.execReplyEnd s
  | .collision index back => Sys2Proof.Machine.execCollision index back s
  | .identify => Sys2Proof.Machine.execIdentify s
  | .setLink => Sys2Proof.Machine.execSetLink s
  | .joinGroups => Sys2Proof.Machine.execJoinGroups s
  | .linkStatus => Sys2Proof.Machine.execLinkStatus s
  | .readTime => Sys2Proof.Machine.execReadTime s
  | .setTime => Sys2Proof.Machine.execSetTime s
  | .setGuard => Sys2Proof.Machine.execSetGuard s
  | .restart => Sys2Proof.Machine.execRestart s
  | .clear => Sys2Proof.Machine.execClear s
  | .storeSteps => Sys2Proof.Machine.execStoreSteps s
  | .eraseSteps => Sys2Proof.Machine.execEraseSteps s
  | .readSteps => Sys2Proof.Machine.execReadSteps s
  | .pageStatus => Sys2Proof.Machine.execPageStatus s
  | .claimLines => Sys2Proof.Machine.execClaimLines s
  | .releaseLines => Sys2Proof.Machine.execReleaseLines s
  | .readLines => Sys2Proof.Machine.execReadLines s
  | .setSegments => Sys2Proof.Machine.execSetSegments s
  | .readSegments => Sys2Proof.Machine.execReadSegments s
  | .setLane => Sys2Proof.Machine.execSetLane s
  | .arm => Sys2Proof.Machine.execArm s
  | .start => Sys2Proof.Machine.execStart s
  | .pause => Sys2Proof.Machine.execPause s
  | .resume => Sys2Proof.Machine.execResume s
  | .stop => Sys2Proof.Machine.execStop s
  | .abort => Sys2Proof.Machine.execAbort s
  | .laneStatus => Sys2Proof.Machine.execLaneStatus s
  | .setWatch => Sys2Proof.Machine.execSetWatch s
  | .enableWatches => Sys2Proof.Machine.execEnableWatches s
  | .watchStatus => Sys2Proof.Machine.execWatchStatus s
  | .setRing => Sys2Proof.Machine.execSetRing s
  | .readRing => Sys2Proof.Machine.execReadRing s
  | .trimRing => Sys2Proof.Machine.execTrimRing s
  | .setNoticeMask => Sys2Proof.Machine.execSetNoticeMask s
  | .poll => Sys2Proof.Machine.execPoll s
  | .changeEvent outside order => Sys2Proof.Machine.execChangeEvent outside order s
  | .openingComparison l => Sys2Proof.Machine.execOpeningComparison l s
  | .holdExpiry l => Sys2Proof.Machine.execHoldExpiry l s
  | .awaitTimeout l => Sys2Proof.Machine.execAwaitTimeout l s
  | .timeTrigger l => Sys2Proof.Machine.execTimeTrigger l s
  | .holdoffExpiry w => Sys2Proof.Machine.execHoldoffExpiry w s
  | .guardExpiry => Sys2Proof.Machine.execGuardExpiry s
  | .powerReset => Sys2Proof.Machine.execPowerReset s
  | .resetPin => Sys2Proof.Machine.execResetPin s
  | .fullResetEnd adr spd outside => Sys2Proof.Machine.execFullResetEnd adr spd outside s
  | .byteReceived b began => Sys2Proof.Machine.execByteReceived b began s

end Sys2Proof.Machine
end

