-- ==== Sys2Proof/Machine/Idle.lean ====
section
/-!
DEFINITION. What the station does on an empty queue (notes/assumptions/1.md and 2.md): an event of its own
clockwork that is due at this microsecond is taken (the sample of the lines, a timer that has run out); when
none is due, one microsecond passes.
-/

namespace Sys2Proof.Machine

/-- The timer events of a lane that are due now (R51, R53, R46). -/
def State.laneDue (s : State) (l : LaneId) : List Instr :=
  (if (s.lane l).holdDue s.now then [.holdExpiry l] else [])
    ++ (if (s.lane l).awaitDue s.now then [.awaitTimeout l] else [])
    ++ (if s.openingDue l then [.openingComparison l] else [])
    ++ (if (s.lane l).triggerDue s.timestamp then [.timeTrigger l] else [])

/-- The holdoff expiry of a watch, when it is due now (R107). -/
def State.watchDue (s : State) (w : WatchId) : List Instr :=
  if (s.watch w).holdoffDue s.timestamp then [.holdoffExpiry w] else []

/-- The events of the station's own clockwork that are due now, none in a reset: the sample of this
microsecond and the timers that have run out. -/
def State.dueEvents (s : State) : List Instr :=
  match s.resetting with
  | some _ => []
  | none =>
    laneIds.flatMap s.laneDue ++ watchIds.flatMap s.watchDue
      ++ (if s.guardDue then [.guardExpiry] else [])
      ++ (if s.link.replyDue s.now then [.replyDelayExpiry] else [])
      ++ (if s.link.replyOver s.now then [.replyEnd] else [])
      ++ (if s.sampleDue then [.changeEvent s.outside (Config.freeOrder s.freeIx)] else [])

/-- One microsecond passes (R162): the elapsed time and the timestamp count. In a reset the timestamp does
not count (R170), and a REQUEST reset ends at once, so no time passes before its end. -/
def State.tick (s : State) : State :=
  match s.resetting with
  | none => { s with now := s.now + 1, timestamp := s.timestamp + 1 }
  | some .request => s
  | some .power => { s with now := s.now + 1 }
  | some .pin => { s with now := s.now + 1 }

/-- A step on an empty queue. Of several events due together a free value of Config chooses the one taken
first; every event taken counts the free choices on, since a sample has used one for its order. -/
def idle (s : State) : Host.Outcome State Fault Refusal :=
  match s.dueEvents with
  | [] => .next s.tick
  | [c] => exec c { s with freeIx := s.freeIx + 1 }
  | c :: d :: rest =>
    exec ((c :: d :: rest).getD (Config.freeChoice s.freeIx % (rest.length + 2)) c)
      { s with freeIx := s.freeIx + 1 }

end Sys2Proof.Machine
end

