-- ==== Sys2Proof/Safety.lean ====
section
/-!
DEFINITION. The vocabulary of the statements: when a frame is executed as a request and what the decoder
leaves behind, what a step's beginning, a start and an abort leave at a lane, what lane work keeps, and the
invariants of the station.
-/

namespace Sys2Proof.Machine

/-! ### Requests and frames -/

/-- The command that is the decoder's step on a frame of a request. -/
def Request.command : Request → Instr
  | .identify => .identify
  | .setLink => .setLink
  | .joinGroups => .joinGroups
  | .linkStatus => .linkStatus
  | .readTime => .readTime
  | .setTime => .setTime
  | .setGuard => .setGuard
  | .restart => .restart
  | .clear => .clear
  | .storeSteps => .storeSteps
  | .eraseSteps => .eraseSteps
  | .readSteps => .readSteps
  | .pageStatus => .pageStatus
  | .claimLines => .claimLines
  | .releaseLines => .releaseLines
  | .readLines => .readLines
  | .setSegments => .setSegments
  | .readSegments => .readSegments
  | .setLane => .setLane
  | .arm => .arm
  | .start => .start
  | .pause => .pause
  | .resume => .resume
  | .stop => .stop
  | .abort => .abort
  | .laneStatus => .laneStatus
  | .setWatch => .setWatch
  | .enableWatches => .enableWatches
  | .watchStatus => .watchStatus
  | .setRing => .setRing
  | .readRing => .readRing
  | .trimRing => .trimRing
  | .setNoticeMask => .setNoticeMask
  | .poll => .poll

/-- A command is the decoder's step on frames of a KIND: a request's command for its code (R177), BAD_KIND
for every other code (R151). -/
def takesKind (c : Instr) (kind : Byte) : Prop :=
  (∃ r : Request, c = r.command ∧ kind = r.code) ∨ (c = .badKind ∧ ∀ r : Request, kind ≠ r.code)

/-- The frame is a unicast frame. -/
abbrev Frame.isUnicast (f : Frame) : Prop := f.addressing = .unicast

/-- The decoder may take a frame now (R148): outside a reset, with the reply slot empty, the oldest frame
of the queue is `f`, and `rest` waits behind it. -/
abbrev State.atHead (s : State) (f : Frame) (rest : List Frame) : Prop :=
  s.resetting = none ∧ s.link.slot = none ∧ s.link.inbound = f :: rest

/-- The frame is a repeat: by the unicast store for a unicast frame (R149), by the group store for a group
or broadcast frame (R150). -/
def Link.isRepeat (k : Link) (f : Frame) : Bool :=
  f.tag != 0 &&
    match f.addressing with
    | .unicast =>
      match k.unicastStore with
      | some x => x.tag == f.tag && x.kind == f.kind
      | none => false
    | .group _ => k.groupStore == some (f.tag, f.kind)
    | .broadcast => k.groupStore == some (f.tag, f.kind)

/-- The frame at the head of the queue is executed as request `r` (R148 to R152): its kind is the request's
code, it is no repeat, a group or broadcast frame carries a kind allowed there, and its length is allowed. -/
abbrev State.executes (s : State) (r : Request) (f : Frame) (rest : List Frame) : Prop :=
  s.atHead f rest ∧ f.kind = r.code ∧ s.link.isRepeat f = false
    ∧ (f.addressing = .unicast ∨ r.groupAllowed = true) ∧ r.lengthOk f.payload.length = true

/-- A unicast frame answered (R152, R153): the frame has left the queue, the reply waits in the slot and
stands in the unicast repeat store; `restart` says that the full reset of a RESTART follows its end. -/
def State.answered (t : State) (f : Frame) (rest : List Frame) (restart : Bool)
    (payload : List Byte) : State :=
  { t with
    link :=
      { t.link with
        inbound := rest
        slot :=
          some { reply := { tag := f.tag, kind := f.kind + 0x80, payload := payload },
                 requestEnd := f.ended, sendingSince := none, restart := restart }
        unicastStore :=
          some { tag := f.tag, kind := f.kind,
                 reply := { tag := f.tag, kind := f.kind + 0x80, payload := payload } } } }

/-- The end of an execution (R152): a unicast frame is answered with a payload; of a group or broadcast
frame TAG and KIND are stored, and nothing is answered. -/
def State.concluded (t : State) (f : Frame) (rest : List Frame) (payload : List Byte) : State :=
  match f.addressing with
  | .unicast => t.answered f rest false payload
  | .group _ => { t with link := { t.link with inbound := rest, groupStore := some (f.tag, f.kind) } }
  | .broadcast =>
    { t with link := { t.link with inbound := rest, groupStore := some (f.tag, f.kind) } }

/-! ### Lanes -/

/-- The slot of the first step of a lane's list. -/
def Lane.firstSlot (x : Lane) : Nat := (x.entryAt 0).first

/-- What a lane keeps from its arming to its end (R39, R41): list, options, start sources, start time. -/
abbrev Lane.sameProgram (y x : Lane) : Prop :=
  y.segments = x.segments ∧ y.options = x.options ∧ y.sources = x.sources
    ∧ y.startTime = x.startTime

/-- The step `st` has begun at a lane at position `p` (R50, R51): record and drive value taken, the origin
and both times set from `now`, comparisons not begun. -/
abbrev Lane.begins (y : Lane) (st : StepRecord) (p : Position) (now : Moment) : Prop :=
  y.position = p ∧ y.current = some st ∧ y.driveValue = st.driveValue ∧ y.origin = now
    ∧ y.timer = (if st.kind = .await ∧ st.time = 0 then none
        else some (now + st.time.toNat * y.options.tick.micros))
    ∧ y.settleEnd = some (now + y.options.settle.toNat * y.options.tick.micros)
    ∧ y.opened = false ∧ y.checking = false

/-- A start of a source was taken at an ARMED lane whose first step is `st` (R42). -/
abbrev Lane.startedBy (y x : Lane) (src : StartSource) (st : StepRecord) (now : Moment) : Prop :=
  y.state = .running ∧ y.begins st { entry := 0, pass := 1, offset := 0 } now
    ∧ y.triggerArmed = false ∧ y.runSource = some src ∧ y.sameProgram x
    ∧ y.passCount = x.passCount ∧ y.faultCount = x.faultCount ∧ y.lastResult = x.lastResult
    ∧ y.pausePending = x.pausePending ∧ y.restartPending = x.restartPending
    ∧ y.stopRequested = x.stopRequested ∧ y.resumePoint = x.resumePoint

/-- No step is in flight (R62, R85). -/
abbrev Lane.stepless (y : Lane) : Prop :=
  y.current = none ∧ y.timer = none ∧ y.settleEnd = none ∧ y.checking = false

/-- A run of lane `x` has ended with a result (R81, R82). -/
abbrev Lane.endedAs (y x : Lane) (result : Result) : Prop :=
  y.state = .idle ∧ y.stepless ∧ y.position = { entry := 0, pass := 0, offset := 0 }
    ∧ y.triggerArmed = false ∧ y.pausePending = false ∧ y.restartPending = false
    ∧ y.stopRequested = false ∧ y.lastResult = result ∧ y.resumePoint = .none
    ∧ y.runSource = none ∧ y.sameProgram x ∧ y.passCount = x.passCount

/-- What lane work leaves alone: everything but lanes, page references, ring and notices. -/
abbrev State.keepsBesideLanes (t s : State) : Prop :=
  t = { s with refs := t.refs, lanes := t.lanes, ring := t.ring, notices := t.notices }

/-- The lanes other than `l` are as they were. -/
abbrev State.keepsOtherLanes (t s : State) (l : LaneId) : Prop :=
  ∀ k : LaneId, k ≠ l → t.lane k = s.lane k

/-- One lane's references on each page are given back (R8). -/
abbrev State.givesBackPages (t s : State) (list : List SegmentEntry) : Prop :=
  ∀ p, p < 128 → t.refCount p = if touches list p then s.refCount p - 1 else s.refCount p

/-- Ring and notice set after what a start of a lane reports (R42): a LANE_START record when the lane
records starts and ends, then CHECKPOINT_REACHED when entry 0 is its checkpoint. -/
def State.startReports (s : State) (l : LaneId) (src : Option StartSource) : State :=
  let r :=
    if (s.lane l).options.record then s.takeRecord (.laneStart l src (s.lane l).passCount) else s
  if (s.lane l).options.checkpoint = some 0 then
    r.raise (.lane .checkpointReached l) (.count (s.lane l).passCount)
  else r

/-- Ring and notice set after what the end of a lane's run reports (R81, R82): a LANE_END record when the
lane records starts and ends, then LANE_DONE. -/
def State.endReports (s : State) (l : LaneId) (result : Result) : State :=
  (if (s.lane l).options.record then
      s.takeRecord (.laneEnd l result (s.lane l).passCount (s.lane l).faultCount)
    else s).raise (.lane .done l) (.result result)

/-- Ring and notice set after what a fault reports (R63, R64), with the fault counted and no more checking
in the step. -/
def State.faultReports (s : State) (l : LaneId) (body : RecordBody) : State :=
  let r := (s.takeRecord body).raise (.lane .fault l) (.position (s.lane l).position)
  r.setLane l
    { s.lane l with checking := false, faultCount := saturate 65535 (s.lane l).faultCount }

/-- Ring and notices are those of another state. -/
abbrev State.reportsAs (t r : State) : Prop := t.ring = r.ring ∧ t.notices = r.notices

/-- A run goes on: what neither a step end, a pause nor a halt touches. -/
abbrev Lane.sameRun (y x : Lane) : Prop :=
  y.sameProgram x ∧ y.passCount = x.passCount ∧ y.faultCount = x.faultCount
    ∧ y.lastResult = x.lastResult ∧ y.restartPending = x.restartPending
    ∧ y.stopRequested = x.stopRequested ∧ y.runSource = x.runSource
    ∧ y.triggerArmed = x.triggerArmed

/-- Lane `l` of state `s` goes on at position `p` (R68, R78, R85): its step begins there, or a pending pause
takes effect there with LANE_PAUSED. Nothing else changes. -/
def State.goesOnAt (t s : State) (l : LaneId) (p : Position) : Prop :=
  t = { s with lanes := t.lanes, notices := t.notices } ∧ t.keepsOtherLanes s l
    ∧ (t.lane l).sameRun (s.lane l)
    ∧ ((s.lane l).pausePending = false →
        t.notices = s.notices ∧ (t.lane l).pausePending = false
          ∧ (t.lane l).state = (s.lane l).state
          ∧ (t.lane l).resumePoint = (s.lane l).resumePoint
          ∧ ∀ st, s.slot (((s.lane l).entryAt p.entry).first + p.offset) = some st →
              (t.lane l).begins st p s.now)
    ∧ ((s.lane l).pausePending = true →
        t.notices = s.notices.raise (.lane .paused l) (.position p)
          ∧ (t.lane l).state = .paused ∧ (t.lane l).resumePoint = .step
          ∧ (t.lane l).pausePending = false ∧ (t.lane l).position = p ∧ (t.lane l).stepless
          ∧ (t.lane l).driveValue = (s.lane l).driveValue)

/-- The run of lane `l` ends with a result (R81, R82): reports, pages given back, the lane IDLE. -/
def State.endsRun (t s : State) (l : LaneId) (result : Result) : Prop :=
  t.keepsBesideLanes s ∧ t.keepsOtherLanes s l ∧ t.reportsAs (s.endReports l result)
    ∧ (t.lane l).endedAs (s.lane l) result ∧ (t.lane l).faultCount = (s.lane l).faultCount
    ∧ t.givesBackPages s (s.lane l).segments

/-- Lane `l` halts at a position with a resume point (R66, R77), with LANE_HALTED; a pending pause is
absorbed. -/
def State.haltsAt (t s : State) (l : LaneId) (p : Position) (point : ResumePoint) : Prop :=
  t = { s with lanes := t.lanes, notices := s.notices.raise (.lane .halted l) (.position p) }
    ∧ t.keepsOtherLanes s l ∧ (t.lane l).sameRun (s.lane l) ∧ (t.lane l).state = .halted
    ∧ (t.lane l).position = p ∧ (t.lane l).resumePoint = point
    ∧ (t.lane l).pausePending = false ∧ (t.lane l).stepless
    ∧ (t.lane l).driveValue = (s.lane l).driveValue

/-- The lane after a restart at the end decision, before it goes on (R80). -/
def Lane.restarted (x : Lane) : Lane :=
  { x with restartPending := false, passCount := saturate 65535 x.passCount }

/-- Lane `l` goes on after the HALT flag of entry `i` (R78 to R81): to the next entry, or by the end
decision to completion or to a restart. -/
def State.leavesEntry (t s : State) (l : LaneId) (i : Nat) : Prop :=
  let x := s.lane l
  let e := x.entryAt i
  (e.isEnd = false →
      t.goesOnAt
        (if x.options.checkpoint = some (i + 1) then
          s.raise (.lane .checkpointReached l) (.count x.passCount) else s)
        l { entry := i + 1, pass := 1, offset := 0 })
    ∧ (e.isEnd = true → x.stopRequested = true → t.endsRun s l .completed)
    ∧ (e.isEnd = true → x.stopRequested = false → x.options.loop = false →
        x.restartPending = false → t.endsRun s l .completed)
    ∧ (e.isEnd = true → x.stopRequested = false →
        x.options.loop = true ∨ x.restartPending = true →
        t.goesOnAt
          ((s.setLane l x.restarted).startReports l
            (if x.restartPending then some .request else x.runSource))
          l { entry := 0, pass := 1, offset := 0 })

/-- The cue of lane `l` has been delivered (R45, R76): an ARMED lane with CUE among its sources takes it as a
start, with the reports of a start; a lane in any other case, and no lane, takes nothing. -/
def State.cueDelivered (u s : State) (l : LaneId) (cue : Option LaneId) : Prop :=
  match cue with
  | none => u = s
  | some k =>
    if (s.lane k).state = .armed ∧ (s.lane k).sources.getLsbD 2 = true then
      u = { s with lanes := u.lanes, ring := u.ring, notices := u.notices }
        ∧ u.keepsOtherLanes s k ∧ u.reportsAs (s.startReports k (some (.cue l)))
        ∧ ∀ st, s.slot (s.lane k).firstSlot = some st →
            (u.lane k).startedBy (s.lane k) (.cue l) st s.now
    else u = s

/-- Lane `l` completes entry `i` (R76 to R81): MARK, cue, checkpoint, HALT flag, then on. -/
def State.completesEntry (t s : State) (l : LaneId) (i : Nat) : Prop :=
  let x := s.lane l
  let e := x.entryAt i
  let marked := if e.mark then s.raise (.lane .mark l) (.entryIndex i) else s
  ∃ cued : State, cued.cueDelivered marked l e.cue ∧
    let passed :=
      if x.options.checkpoint = some i then
        cued.raise (.lane .checkpointPassed l) (.count x.passCount)
      else cued
    (e.halt = true →
        t.haltsAt passed l { entry := i, pass := e.passes, offset := e.count } .afterHalt)
      ∧ (e.halt = false → t.leavesEntry passed l i)

/-- The step at the lane's position is the last of its pass and its pass the last of its entry (R68). -/
abbrev Lane.endsEntry (x : Lane) : Prop :=
  (x.entryAt x.position.entry).count ≤ x.position.offset + 1
    ∧ (x.entryAt x.position.entry).passes ≤ x.position.pass

/-- The step of lane `l` ends (R68 to R70): on to the next step or the next pass, or to the completion of
its entry. -/
def State.endsStep (t s : State) (l : LaneId) : Prop :=
  let x := s.lane l
  let e := x.entryAt x.position.entry
  (x.position.offset + 1 < e.count →
      t.goesOnAt s l { x.position with offset := x.position.offset + 1 })
    ∧ (e.count ≤ x.position.offset + 1 → x.position.pass < e.passes →
      t.goesOnAt s l { x.position with pass := x.position.pass + 1, offset := 0 })
    ∧ (x.endsEntry → t.completesEntry s l x.position.entry)

/-- The step timer of lane `l` has run out at `due` in a step `st` of a RUNNING lane. -/
abbrev State.timerRunsOut (s : State) (l : LaneId) (st : StepRecord) (due : Moment) : Prop :=
  s.resetting = none ∧ (s.lane l).state = .running ∧ (s.lane l).current = some st
    ∧ (s.lane l).timer = some due ∧ due ≤ s.now

/-- The lines of the mask at which a sample differs from the expected value (R52). -/
def StepRecord.off (st : StepRecord) (v : Lines) : Lines := (v ^^^ st.expectValue) &&& st.expectMask

/-- CHANGE_EVENT finds the sample of this microsecond still to be taken, and with the outside at the lines
the lines stand at `v`, which is not the sampled state (R22, R23). -/
abbrev State.changesTo (s : State) (o : Outside) (v : Lines) : Prop :=
  s.resetting = none ∧ s.sampleAt ≠ s.now ∧ State.lineLevels { s with outside := o } = v
    ∧ v ≠ s.sampled

/-- The station with a sample just taken as its sampled state, before any receiver has taken the event. -/
def State.withSample (s : State) (o : Outside) (v : Lines) : State :=
  { s with outside := o, sampled := v, sampleAt := s.now }

/-- At command `c` lane `l` compares the sample `v` in its step `st`, from the state `s'` that the command
has reached (R53, R56, R58, R62): the opening comparison with the sample of this microsecond, or a change
event that meets no enabled watch and no other checking lane. -/
def State.compares (s : State) (c : Instr) (l : LaneId) (st : StepRecord) (v : Lines)
    (s' : State) : Prop :=
  s.resetting = none ∧ (s.lane l).state = .running ∧ (s.lane l).current = some st
    ∧ (st.check = .throughout ∨ st.check = .awaitMatch)
    ∧ ((c = .openingComparison l ∧ v = s.sampled ∧ s.sampleAt = s.now ∧ (s.lane l).opened = false
          ∧ (∃ e, (s.lane l).settleEnd = some e ∧ e < s.now)
          ∧ (∀ due, (s.lane l).timer = some due → s.now ≤ due)
          ∧ s' = s.setLane l { s.lane l with opened := true })
        ∨ (∃ o order, c = .changeEvent o order ∧ s.changesTo o v ∧ (s.lane l).checking = true
          ∧ (∀ w, (s.watch w).state ≠ .enabled)
          ∧ (∀ k, k ≠ l → (s.lane k).checking = false) ∧ s' = s.withSample o v))

/-- At command `c` lane `l` meets a fault of its step `st`, reported by the record `body`, from the state
`s'` that the command has reached: a failed AT_END comparison (R55), an AWAIT limit that expires (R59), or
a failed THROUGHOUT comparison (R56). -/
def State.faults (s : State) (c : Instr) (l : LaneId) (st : StepRecord) (body : RecordBody)
    (s' : State) : Prop :=
  (∃ due e, c = .holdExpiry l ∧ s' = s ∧ s.timerRunsOut l st due ∧ st.kind = .drive
      ∧ st.check = .atEnd ∧ (s.lane l).settleEnd = some e ∧ e < due ∧ st.off s.sampled ≠ 0
      ∧ body = .stepFault l (s.lane l).position .atEnd s.sampled (st.off s.sampled))
    ∨ (∃ due, c = .awaitTimeout l ∧ s' = s ∧ s.timerRunsOut l st due ∧ st.kind = .await
      ∧ st.check = .awaitMatch
      ∧ body = .awaitTimeout l (s.lane l).position .awaitMatch s.sampled (st.off s.sampled))
    ∨ (∃ v, s.compares c l st v s' ∧ st.check = .throughout ∧ st.off v ≠ 0
      ∧ body = .stepFault l (s.lane l).position .throughout v (st.off v))

/-- A fault of lane `l` in its step `st` at state `s`, reported by `body`, and what its on-mismatch action
leaves (R63 to R67): HALT halts the lane at the next position, ABORT ends the run, GO_ON lets a THROUGHOUT
step run on without checking and ends any other step. -/
def State.followsFault (t s : State) (l : LaneId) (st : StepRecord) (body : RecordBody) : Prop :=
  let r := s.faultReports l body
  let x := s.lane l
  let e := x.entryAt x.position.entry
  let next : Position :=
    if x.position.offset + 1 < e.count then { x.position with offset := x.position.offset + 1 }
    else if x.position.pass < e.passes then
      { x.position with pass := x.position.pass + 1, offset := 0 }
    else { x.position with offset := e.count }
  (st.onMismatch = .halt → t.haltsAt r l next (if x.endsEntry then .completion else .step))
    ∧ (st.onMismatch = .abort → t.endsRun r l .abortedFault)
    ∧ (st.onMismatch = .goOn → st.check = .throughout → t = r)
    ∧ (st.onMismatch = .goOn → st.check ≠ .throughout → t.endsStep r l)

/-! ### Change events -/

/-- The condition of a watch is met on an event (R101, FIGURE 4). -/
def WatchDef.isMet (d : WatchDef) (before after : Lines) : Prop :=
  let stands : Lines → Prop := fun v => (v ^^^ d.pattern) &&& d.mask = 0
  match d.condition with
  | .enter => ¬ stands before ∧ stands after
  | .leave => stands before ∧ ¬ stands after
  | .change => (before ^^^ after) &&& d.mask ≠ 0

/-- The event is a hit of watch `w` with definition `d` (R101, R107): ENABLED, the condition met, the holdoff
stopped. -/
abbrev State.isHit (s : State) (w : WatchId) (d : WatchDef) (before after : Lines) : Prop :=
  (s.watch w).state = .enabled ∧ (s.watch w).defn = some d ∧ d.isMet before after
    ∧ (s.watch w).holdoffEnd = none

/-- What a hit of watch `w` leaves (R103 to R107, R92): counted, recorded, noticed and delivered to its target
lane in this order, then the holdoff starts and a ONE_SHOT watch is SPENT. -/
def State.hasHit (t s : State) (w : WatchId) (d : WatchDef) (before after : Lines) : Prop :=
  let hits := if (s.watch w).hits < 65535 then (s.watch w).hits + 1 else 65535
  let recorded :=
    if d.record then s.takeRecord (.watchHit w after (before ^^^ after)) else s
  let told := if d.notify then recorded.raise (.watchHit w) (.count hits) else recorded
  t = { s with
      refs := t.refs, lanes := t.lanes, watches := t.watches, ring := t.ring, notices := t.notices }
    ∧ (∀ k, k ≠ w → t.watch k = s.watch k)
    ∧ t.watch w =
        { s.watch w with
          hits := hits
          holdoffEnd :=
            if d.holdoff = 0 then none else some (s.timestamp + d.holdoff.setWidth 32)
          state := if d.oneShot then .spent else .enabled }
    ∧ match d.laneAction with
      | none => t.reportsAs told ∧ t.lanes = s.lanes ∧ t.refs = s.refs
      | some (l, .start) =>
        t.refs = s.refs ∧ t.keepsOtherLanes s l
          ∧ ((s.lane l).state = .armed ∧ (s.lane l).sources.getLsbD 1 = true →
              t.reportsAs (told.startReports l (some (.watch w)))
                ∧ ∀ st, s.slot (s.lane l).firstSlot = some st →
                    (t.lane l).startedBy (s.lane l) (.watch w) st s.now)
          ∧ ((s.lane l).state ≠ .armed ∨ (s.lane l).sources.getLsbD 1 = false →
              t.reportsAs told ∧ t.lane l = s.lane l)
      | some (l, .pause) =>
        t.refs = s.refs ∧ t.keepsOtherLanes s l ∧ t.reportsAs told
          ∧ t.lane l =
              if (s.lane l).state = .running then { s.lane l with pausePending := true }
              else s.lane l
      | some (l, .abort) =>
        t.keepsOtherLanes s l
          ∧ ((s.lane l).state = .idle →
              t.reportsAs told ∧ t.refs = s.refs ∧ t.lane l = s.lane l)
          ∧ ((s.lane l).state ≠ .idle →
              t.reportsAs (told.endReports l .abortedWatch)
                ∧ (t.lane l).endedAs (s.lane l) .abortedWatch
                ∧ (t.lane l).faultCount = (s.lane l).faultCount
                ∧ t.givesBackPages s (s.lane l).segments)

/-- Watch `w` takes an event: its hit, or nothing. -/
def State.watchTakes (t s : State) (w : WatchId) (before after : Lines) : Prop :=
  (∀ d, s.isHit w d before after → t.hasHit s w d before after)
    ∧ ((∀ d, ¬ s.isHit w d before after) → t = s)

/-- Lane `l` takes an event (R56 to R58, R62): one that is not checking takes nothing; a THROUGHOUT step goes on
at a match and faults at a failure; an AWAIT step ends at a match and goes on at a failure. -/
def State.laneTakes (t s : State) (l : LaneId) (after : Lines) : Prop :=
  let x := s.lane l
  (x.state ≠ .running ∨ x.checking = false → t = s)
    ∧ ∀ st, x.state = .running → x.checking = true → x.current = some st →
        (st.check = .throughout → st.off after = 0 → t = s)
          ∧ (st.check = .throughout → st.off after ≠ 0 →
              t.followsFault s l st (.stepFault l x.position .throughout after (st.off after)))
          ∧ (st.check = .awaitMatch → st.off after ≠ 0 → t = s)
          ∧ (st.check = .awaitMatch → st.off after = 0 → t.endsStep s l)

/-- A receiver takes an event (R23, R102): a lane by itself, the watch unit watch by watch, W0 first and W7
last, each watch finding what the one before has left. -/
def State.receives (t s : State) (r : Receiver) (before after : Lines) : Prop :=
  match r with
  | .lane l => t.laneTakes s l after
  | .watchUnit =>
    ∃ u : Nat → State, u 0 = s ∧ u 8 = t
      ∧ ∀ w : WatchId, (u (w.val + 1)).watchTakes (u w.val) w before after

/-! ### RESUME -/

/-- A PAUSED or HALTED lane `l` is resumed (R86, R87): RUNNING without a resume point, and on by the point it
held: its step begins at the held position, its entry completes from the first act, or it goes on after the
HALT flag. -/
def State.resumes (t s : State) (l : LaneId) : Prop :=
  let x := s.lane l
  let r := s.setLane l { x with state := .running, resumePoint := .none }
  (x.resumePoint = .step →
      t = { s with lanes := t.lanes } ∧ t.keepsOtherLanes s l ∧ (t.lane l).state = .running
        ∧ (t.lane l).resumePoint = .none ∧ (t.lane l).sameRun x
        ∧ (t.lane l).pausePending = x.pausePending
        ∧ ∀ st, s.slot x.slotNumber = some st → (t.lane l).begins st x.position s.now)
    ∧ (x.resumePoint = .completion → t.completesEntry r l x.position.entry)
    ∧ (x.resumePoint = .afterHalt → t.leavesEntry r l x.position.entry)

/-- RESUME at lane `l`, in the set or not, with its outcome (R83, R86 to R88): RESUMED at a PAUSED or HALTED
lane, CANCELLED where a pause was pending, NO_EFFECT else, NOT_NAMED outside the set. -/
def State.takesResume (t s : State) (l : LaneId) (named : Bool) (outcome : Byte) : Prop :=
  let x := s.lane l
  (named = false → t = s ∧ outcome = 0)
    ∧ (named = true → x.state = .paused ∨ x.state = .halted → t.resumes s l ∧ outcome = 6)
    ∧ (named = true → x.state = .running → x.pausePending = true →
        t = s.setLane l { x with pausePending := false } ∧ outcome = 7)
    ∧ (named = true → x.state = .running → x.pausePending = false → t = s ∧ outcome = 5)
    ∧ (named = true → x.state = .idle ∨ x.state = .armed → t = s ∧ outcome = 5)

/-! ### The receiver's looks -/

/-- What a whole frame with a right CRC leaves (R142, R146, R158, R167): ignored when the group set at its end
and the station address do not take its DEST; else the guard is restarted at its end and the frame is
queued, or dropped and counted. -/
def State.frameEnds (s : State) (v : List Byte) (ended : Moment) (groups : BitVec 16) : State :=
  match addressingOf (byteAt v 1) s.link.address groups with
  | none => s
  | some a =>
    let guarded : State := { s with guard := if s.guard = .off then .off else .running ended }
    if s.link.inbound.length < 4 then
      { guarded with
        link := { guarded.link with
          inbound := s.link.inbound ++
            [{ addressing := a, tag := byteAt v 4, kind := byteAt v 5,
               payload := (v.drop 6).take ((byteAt v 3).toNat - 2), ended := ended }] } }
    else { guarded with link := { guarded.link with overrun := saturate 65535 s.link.overrun } }

/-- One discarded frame counted (R145, R159). -/
def State.discardCounted (s : State) : State :=
  { s with link := { s.link with discarded := saturate 65535 s.link.discarded } }

/-- The receiver looks at a run of bytes from HUNT on and leaves a state (R143, R145, R146). -/
inductive LooksAt : State → List RxByte → State → Prop where
  /-- No byte is left: HUNT, nothing held. -/
  | hunt (s : State) : LooksAt s [] { s with link := { s.link with assembly := [] } }
  /-- A byte that is no SYNC is passed over. -/
  | passOver (s t : State) (b : RxByte) (rest : List RxByte) :
      b.value ≠ 0xC3 → LooksAt s rest t → LooksAt s (b :: rest) t
  /-- A frame without its LEN byte stays in assembly. -/
  | keepShort (s : State) (b : RxByte) (rest : List RxByte) :
      b.value = 0xC3 → rest.length < 3 →
      LooksAt s (b :: rest) { s with link := { s.link with assembly := b :: rest } }
  /-- A frame with its LEN in range and bytes to come stays in assembly. -/
  | keep (s : State) (b len : RxByte) (rest : List RxByte) :
      b.value = 0xC3 → rest[2]? = some len → 2 ≤ len.value.toNat → len.value.toNat ≤ 242 →
      rest.length + 1 < len.value.toNat + 6 →
      LooksAt s (b :: rest) { s with link := { s.link with assembly := b :: rest } }
  /-- A LEN out of range discards the frame; the bytes after its SYNC are looked at again. -/
  | badLen (s t : State) (b len : RxByte) (rest : List RxByte) :
      b.value = 0xC3 → rest[2]? = some len → len.value.toNat < 2 ∨ 242 < len.value.toNat →
      LooksAt s.discardCounted rest t → LooksAt s (b :: rest) t
  /-- A wrong CRC discards the frame; the bytes after its SYNC are looked at again. -/
  | badCrc (s t : State) (b len : RxByte) (rest : List RxByte) :
      b.value = 0xC3 → rest[2]? = some len → 2 ≤ len.value.toNat → len.value.toNat ≤ 242 →
      len.value.toNat + 6 ≤ rest.length + 1 →
      frameCrcOk (((b :: rest).take (len.value.toNat + 6)).map RxByte.value) = false →
      LooksAt s.discardCounted rest t → LooksAt s (b :: rest) t
  /-- A whole frame with a right CRC ends at its last byte; the bytes after it are looked at. -/
  | frame (s t : State) (b len last : RxByte) (rest : List RxByte) :
      b.value = 0xC3 → rest[2]? = some len → 2 ≤ len.value.toNat → len.value.toNat ≤ 242 →
      len.value.toNat + 6 ≤ rest.length + 1 →
      ((b :: rest).take (len.value.toNat + 6)).getLast? = some last →
      frameCrcOk (((b :: rest).take (len.value.toNat + 6)).map RxByte.value) = true →
      LooksAt
        (s.frameEnds (((b :: rest).take (len.value.toNat + 6)).map RxByte.value) last.received
          last.groups)
        ((b :: rest).drop (len.value.toNat + 6)) t →
      LooksAt s (b :: rest) t

/-- How many lanes satisfy a condition. -/
def countLanes (p : LaneId → Bool) : Nat := laneIds.countP p

/-! ### Invariants -/

/-- The flags, timers and points of a lane agree with its state (R62, R74, R75, R42, R72). -/
def Lane.ok (x : Lane) : Prop :=
  (x.pausePending = true → x.state = .running)
    ∧ ¬ (x.restartPending = true ∧ x.stopRequested = true)
    ∧ (x.state = .idle ∨ x.state = .armed → x.restartPending = false ∧ x.stopRequested = false)
    ∧ (x.state ≠ .paused ∧ x.state ≠ .halted → x.resumePoint = .none)
    ∧ (x.state = .idle ∨ x.state = .armed → x.runSource = none)
    ∧ (x.triggerArmed = true → x.state = .armed ∧ x.sources.getLsbD 3 = true)
    ∧ (x.current ≠ none ∨ x.timer ≠ none ∨ x.settleEnd ≠ none ∨ x.checking = true →
        x.state = .running ∧ x.current ≠ none)

/-- Every lane is in order. -/
def State.lanesOk (s : State) : Prop := ∀ l, (s.lane l).ok

/-- The reference count of a page is the number of lanes that are not IDLE and whose list touches it
(R6). -/
def State.refsOk (s : State) : Prop :=
  ∀ p, p < 128 → s.refCount p =
    countLanes fun l => decide ((s.lane l).state ≠ .idle) && touches (s.lane l).segments p

/-- The store is in canonical form, holds slots 0 to 2047 and valid step records alone (R2, R4). -/
def State.storeOk (s : State) : Prop :=
  Sparse.wf s.slots = true ∧ ∀ e ∈ s.slots, e.1 < 2048 ∧ e.2.valid = true

/-- A lane that is not IDLE has a valid list, and every slot it reaches is filled (R41). -/
def State.listsOk (s : State) : Prop :=
  ∀ l, (s.lane l).state ≠ .idle →
    listValid l (s.lane l).segments = true
      ∧ ∀ e ∈ (s.lane l).segments, ∀ n ∈ e.slots, s.slot n ≠ none

/-- The position of a lane names a step or a completion of its list (R49), and a RUNNING lane runs the
record that the slot of its position holds (R9, R50). -/
def State.positionsOk (s : State) : Prop :=
  ∀ l,
    let x := s.lane l
    let e := x.entryAt x.position.entry
    ((x.state = .idle ∨ x.state = .armed) → x.position = { entry := 0, pass := 0, offset := 0 })
      ∧ (x.state = .running ∨ x.resumePoint = .step →
          x.position.entry < x.segments.length ∧ 1 ≤ x.position.pass
            ∧ x.position.pass ≤ e.passes ∧ x.position.offset < e.count)
      ∧ (x.resumePoint = .completion ∨ x.resumePoint = .afterHalt →
          x.position.entry < x.segments.length ∧ x.position.pass = e.passes
            ∧ x.position.offset = e.count)
      ∧ (x.state = .paused → x.resumePoint = .step)
      ∧ (x.state = .halted → x.resumePoint ≠ .none)
      ∧ (x.state = .running → x.current = s.slot (e.first + x.position.offset) ∧ x.current ≠ none)

/-- In a reset no lane has a step in flight (R170). -/
def State.resetOk (s : State) : Prop := s.resetting ≠ none → ∀ l, (s.lane l).state = .idle

/-- No step timer has been passed by, no opening comparison has been missed (R51, R53), and every
microsecond outside a reset has its sample: the sample of this one has been taken, or that of the one before
is the last (R22). -/
def State.timingOk (s : State) : Prop :=
  (s.resetting = none → s.sampleAt = s.now ∨ s.sampleAt + 1 = s.now) ∧ ∀ l,
    (∀ t, (s.lane l).timer = some t → s.now ≤ t)
      ∧ (∀ st e, (s.lane l).state = .running → (s.lane l).current = some st →
          st.check.opens = true → (s.lane l).opened = false → (s.lane l).settleEnd = some e →
          s.now ≤ e + 1)

/-- The notice set never holds two entries of one key, and every entry is of a kind it records, with an
occurrence count of 1 to 255 (R128). -/
def NoticeSet.ok (n : NoticeSet) : Prop :=
  (n.entries.map NoticeEntry.key).Nodup
    ∧ ∀ e ∈ n.entries, n.records e.key = true ∧ 1 ≤ e.count ∧ e.count ≤ 255

/-- The ring holds at most 512 records, and its threshold is 1 to 512 (R114). -/
def Ring.ok (r : Ring) : Prop := r.records.length ≤ 512 ∧ 1 ≤ r.threshold ∧ r.threshold ≤ 512

/-- Serials in their order (R1, R114, R128): counted back from the next serial, each lies nearer than the one
stored before it, and none is the next serial itself. -/
def serialsInOrder (next : Serial) (serials : List Serial) : Prop :=
  serials.Pairwise (fun a b => (next - b).toNat < (next - a).toNat) ∧ ∀ a ∈ serials, a ≠ next

/-- The serials of the ring increase in stored order (R114). -/
def Ring.inOrder (r : Ring) : Prop :=
  serialsInOrder r.nextSerial (r.records.map CaptureRecord.serial)

/-- The notice list is in serial order (R128). -/
def NoticeSet.inOrder (n : NoticeSet) : Prop :=
  serialsInOrder n.nextSerial (n.entries.map NoticeEntry.serial)

/-- Every stored serial lies within the window of R1 before the next serial. -/
def State.serialsInWindow (s : State) : Prop :=
  (∀ r ∈ s.ring.records, atOrBefore r.serial s.ring.nextSerial = true)
    ∧ ∀ e ∈ s.notices.entries, atOrBefore e.serial s.notices.nextSerial = true

/-- What the receiver holds begins with a SYNC, and is less than a whole frame with LEN in range (R143). -/
def Link.assemblyOk (k : Link) : Prop :=
  k.assembly = [] ∨
    ((k.assembly.map RxByte.value).head? = some 0xC3
      ∧ (4 ≤ k.assembly.length →
          2 ≤ k.lenByte ∧ k.lenByte ≤ 242 ∧ k.assembly.length < k.lenByte + 6))

/-- A listen-only station holds no reply and no unicast frame (R141, R153). -/
def Link.listenOnlyOk (k : Link) : Prop :=
  k.address = 0 → k.slot = none ∧ ∀ f ∈ k.inbound, f.addressing ≠ .unicast

/-- The link blocks are in order: the assembly, the queue of at most 4 frames (R146), the four counts
(R159), and the silence of a listen-only station. -/
def Link.ok (k : Link) : Prop :=
  k.assemblyOk ∧ k.inbound.length ≤ 4 ∧ k.listenOnlyOk
    ∧ k.discarded ≤ 65535 ∧ k.overrun ≤ 65535 ∧ k.collision ≤ 65535 ∧ k.repeats ≤ 65535

end Sys2Proof.Machine
end

