-- ==== Sys2Proof/Certificates/Slice0/Obligations.lean ====
section
/-!
DEFINITION. The statements about the station, one proposition each, in the order of OBLIGATIONS.json. A
statement on an event's result says that the command answers the next state it describes.
-/

section

open Sys2Proof Sys2Proof.Machine

/-! ### The queue, the clock and the resets -/

/-- A step takes the command at the front of the queue and executes it with the queue's rest. -/
def Obligations.StepTakesFrontCommand : Prop :=
  ∀ (c : Instr) (s : State), step { s with pending := c :: s.pending } = exec c s

/-- On an empty queue with nothing due one microsecond passes: elapsed time and timestamp count outside a
reset, elapsed time alone in a POWER or PIN reset, neither in a REQUEST reset (the model's clock,
notes/assumptions/1.md and 9.md). On an empty queue with events due, one of them is executed, whichever the
free choice takes (notes/assumptions/2.md); the counter of free choices alone may move besides. The events due
are the sample of the lines and the timers that have run out, as the next statement gives them. -/
def Obligations.IdleStepPassesTimeOrTakesADueEvent : Prop :=
  (∀ s : State, s.pending = [] → s.dueEvents = [] →
     step s = .next
       (match s.resetting with
         | none => { s with now := s.now + 1, timestamp := s.timestamp + 1 }
         | some .power => { s with now := s.now + 1 }
         | some .pin => { s with now := s.now + 1 }
         | some .request => s))
  ∧ (∀ s : State, s.pending = [] → s.dueEvents ≠ [] →
       ∃ c ∈ s.dueEvents, ∃ n, step s = exec c { s with freeIx := n })

/-- The events an idle step may take are exactly the sample of the lines, once in every microsecond (its
receivers in a free order, notes/assumptions/5.md), and the timers that have run out, and none in a reset; an
opening comparison waits for this microsecond's sample (the model's, notes/assumptions/7.md). A timer event
that is not due changes nothing: it cannot come then (the model's reading, notes/assumptions/3.md).

What belongs to this list is the model's choice: that an idle step takes due events at all
(notes/assumptions/2.md), the sample with the outside as it stands (notes/assumptions/6.md), and that
GAP_TIMEOUT, which R144 puts at 4 character times, and the decoder's steps are left to the sender
(notes/assumptions/25.md and 4.md). -/
def Obligations.TimerEventsActExactlyWhenDue : Prop :=
  (∀ (s : State) (c : Instr), c ∈ s.dueEvents ↔
     s.resetting = none ∧
       ((∃ l st t, c = .holdExpiry l ∧ (s.lane l).state = .running ∧ (s.lane l).current = some st
           ∧ st.kind = .drive ∧ (s.lane l).timer = some t ∧ t ≤ s.now)
         ∨ (∃ l st t, c = .awaitTimeout l ∧ (s.lane l).state = .running
           ∧ (s.lane l).current = some st ∧ st.kind = .await ∧ (s.lane l).timer = some t
           ∧ t ≤ s.now)
         ∨ (∃ l st e, c = .openingComparison l ∧ (s.lane l).state = .running
           ∧ (s.lane l).current = some st ∧ (st.check = .throughout ∨ st.check = .awaitMatch)
           ∧ (s.lane l).opened = false ∧ (s.lane l).settleEnd = some e ∧ e < s.now
           ∧ s.sampleAt = s.now ∧ ∀ t, (s.lane l).timer = some t → s.now ≤ t)
         ∨ (∃ l, c = .timeTrigger l ∧ (s.lane l).state = .armed ∧ (s.lane l).triggerArmed = true
           ∧ s.timestamp = (s.lane l).startTime)
         ∨ (∃ w, c = .holdoffExpiry w ∧ (s.watch w).holdoffEnd = some s.timestamp)
         ∨ (∃ since, c = .guardExpiry ∧ s.guard = .running since
           ∧ since + s.guardPeriod.toNat * 1000 ≤ s.now)
         ∨ (∃ x, c = .replyDelayExpiry ∧ s.link.slot = some x ∧ x.sendingSince = none
           ∧ s.link.replyDelay.toNat * 10 * 1000000
               ≤ (s.now - x.requestEnd) * Config.bitRate s.link.rate)
         ∨ (∃ x since, c = .replyEnd ∧ s.link.slot = some x ∧ x.sendingSince = some since
           ∧ (x.reply.payload.length + 8) * 10 * 1000000
               ≤ (s.now - since) * Config.bitRate s.link.rate)
         ∨ (c = .changeEvent s.outside (Config.freeOrder s.freeIx) ∧ s.sampleAt ≠ s.now)))
  ∧ (∀ (s : State) (l : LaneId) (w : WatchId) (c : Instr),
       c ∈ [.holdExpiry l, .awaitTimeout l, .openingComparison l, .timeTrigger l, .holdoffExpiry w,
         .guardExpiry, .replyDelayExpiry, .replyEnd] →
       c ∉ s.dueEvents → exec c s = .next s)

/-- POWER_RESET and RESET_PIN begin a full reset with their cause, at once and in every state, but join a
POWER or PIN reset that lasts. Through it no line is driven, ATTN is released, the reply on the line is
ended, every lane is IDLE, and the queue of frames is empty. (That the blocks are empty from the beginning of
the reset on is the model's choice, notes/assumptions/8.md.) -/
def Obligations.ResetCausesHoldTheStation : Prop :=
  ∀ s : State,
    (s.resetting = none ∨ s.resetting = some .request →
      ∀ p ∈ [(Instr.powerReset, ResetCause.power), (Instr.resetPin, ResetCause.pin)],
        ∃ t : State, exec p.1 s = .next t ∧ t.resetting = some p.2 ∧ t.pending = s.pending
          ∧ t.now = s.now ∧ t.driven = 0 ∧ t.attn = false ∧ t.link.slot = none
          ∧ t.link.assembly = [] ∧ t.link.inbound = [] ∧ t.ring.records = []
          ∧ t.notices.entries = [] ∧ t.slots = [] ∧ ∀ l, (t.lane l).state = .idle)
      ∧ (s.resetting = some .power ∨ s.resetting = some .pin →
        exec .powerReset s = .next s ∧ exec .resetPin s = .next s)

/-- FULL_RESET_END leaves every block at its values after a full reset, with the straps read, the first
sample taken (no line is driven: a line stands at its outside level, or high), the timestamp 0, the guard OFF
and STATION_RESTARTED recorded with the cause; ATTN is asserted. (The queue of commands, the elapsed time and
the counter of free choices, the form of `outside`, and the values of `sampleAt`, `listenFrom`, `driveValue`,
`origin` and `opened`, are the model's: notes/assumptions/6.md, 11.md, 12.md, 16.md.) -/
def Obligations.FullResetEndSetsEveryBlock : Prop :=
  ∀ (s : State) (cause : ResetCause) (adr : BitVec 5) (spd : BitVec 2) (o : Outside),
    s.resetting = some cause →
      ∃ t : State, exec (.fullResetEnd adr spd o) s = .next t ∧ t.attn = true
        ∧ t =
          { pending := s.pending, now := s.now, freeIx := s.freeIx, resetting := none,
            timestamp := 0, guardPeriod := 0, guard := .off,
            link :=
              { address := adr, rate := spd, groups := 0, assembly := [], listenFrom := s.now,
                inbound := [], unicastStore := none, groupStore := none, slot := none,
                replyDelay := 2, discarded := 0, overrun := 0, collision := 0, repeats := 0 },
            slots := [], refs := Vector.replicate 128 0, claims := Vector.replicate 40 .free,
            outside := o, sampled := (o.held &&& o.levels) ||| ~~~o.held, sampleAt := s.now,
            lanes :=
              Vector.replicate 4
                { state := .idle, segments := [],
                  options :=
                    { tick := .us10, settle := 0, checkpoint := none, loop := false,
                      record := false },
                  sources := 0, startTime := 0, triggerArmed := false,
                  position := { entry := 0, pass := 0, offset := 0 }, current := none,
                  driveValue := 0, origin := 0, timer := none, settleEnd := none,
                  opened := false, checking := false, pausePending := false,
                  restartPending := false, stopRequested := false, passCount := 0,
                  faultCount := 0, lastResult := .none, resumePoint := .none,
                  runSource := none },
            watches :=
              Vector.replicate 8
                { state := .undefined, defn := none, hits := 0, holdoffEnd := none },
            ring := { records := [], nextSerial := 1, policy := .keepOldest, threshold := 384 },
            notices :=
              { entries :=
                  [{ serial := 1, key := .stationRestarted, count := 1, detail := .cause cause,
                     reported := false }],
                nextSerial := 2, mask := 0x0FFF } }

/-- State.reset is a station at the end of a full reset: every slot EMPTY, every count 0, every line FREE,
every lane and watch cleared, the ring, the notice set and station control at their reset values; the sampled
state is what the lines stand at. (Cause, straps and what the outside does are the model's,
notes/assumptions/10.md, and are not stated here.) -/
def Obligations.ResetStateHoldsTheResetValues : Prop :=
  State.reset.pending = [] ∧ State.reset.resetting = none ∧ State.reset.timestamp = 0
    ∧ State.reset.guardPeriod = 0 ∧ State.reset.guard = .off
    ∧ (∀ n, State.reset.slot n = none) ∧ (∀ p, State.reset.refCount p = 0)
    ∧ (∀ n, State.reset.claim n = .free) ∧ State.reset.driven = 0
    ∧ State.reset.sampled = State.reset.lineLevels
    ∧ (∀ l, State.reset.lane l = Lane.cleared) ∧ (∀ w, State.reset.watch w = Watch.cleared)
    ∧ State.reset.ring = { records := [], nextSerial := 1, policy := .keepOldest, threshold := 384 }
    ∧ State.reset.notices.entries.map (fun e => (e.serial, e.key, e.count, e.reported))
        = [(1, .stationRestarted, 1, false)]
    ∧ State.reset.notices.nextSerial = 2 ∧ State.reset.notices.mask = 0x0FFF
    ∧ State.reset.attn = true
    ∧ State.reset.link.groups = 0 ∧ State.reset.link.assembly = []
    ∧ State.reset.link.inbound = [] ∧ State.reset.link.unicastStore = none
    ∧ State.reset.link.groupStore = none ∧ State.reset.link.slot = none
    ∧ State.reset.link.replyDelay = 2 ∧ State.reset.link.discarded = 0
    ∧ State.reset.link.overrun = 0 ∧ State.reset.link.collision = 0
    ∧ State.reset.link.repeats = 0

/-- In a reset every command but the two reset causes and FULL_RESET_END changes nothing, and FULL_RESET_END
changes nothing outside one (the model's reading, notes/assumptions/3.md and 8.md). -/
def Obligations.OnlyResetEventsActInAReset : Prop :=
  ∀ (s : State) (c : Instr),
    (s.resetting ≠ none → c ≠ .powerReset → c ≠ .resetPin →
        (∀ adr spd o, c ≠ .fullResetEnd adr spd o) → exec c s = .next s)
      ∧ ∀ adr spd o, s.resetting = none → exec (.fullResetEnd adr spd o) s = .next s

/-! ### The link receiver -/

/-- BYTE_RECEIVED assembles frames. In HUNT a byte other than 0xC3 is passed over and 0xC3 begins a frame;
after it the byte is taken until the frame is whole, and a LEN out of range is left to another statement. A
byte that began while a reply is being sent, or before the last release of the line, is not looked at, and a
byte that began more than 4 character times after the last one of a frame finds the receiver in HUNT. (The
release as a moment is the model's, notes/assumptions/12.md; so are the moments and group sets kept with the
bytes, notes/assumptions/13.md.) -/
def Obligations.ByteReceivedAssemblesFrames : Prop :=
  ∀ (s : State) (b : Byte) (began : Moment), s.resetting = none →
    let k := s.link
    let new : RxByte := { value := b, received := s.now, groups := k.groups }
    (k.listens began = true ↔
        (∀ x, k.slot = some x → x.sendingSince = none) ∧ k.listenFrom ≤ began)
      ∧ (k.gapPassed began = true ↔
        ∃ last, k.assembly.getLast? = some last
          ∧ 4 * 10 * 1000000 < (began - last.received) * Config.bitRate k.rate)
      ∧ (k.listens began = false → exec (.byteReceived b began) s = .next s)
      ∧ (k.listens began = true → k.gapPassed began = true →
          exec (.byteReceived b began) s =
            exec (.byteReceived b began)
              { s with link := { k with assembly := [], discarded := saturate 65535 k.discarded } })
      ∧ (k.listens began = true → k.gapPassed began = false → k.assemblyOk →
          (k.assembly = [] → b ≠ 0xC3 → exec (.byteReceived b began) s = .next s)
            ∧ (k.assembly = [] → b = 0xC3 →
                exec (.byteReceived b began) s = .next { s with link := { k with assembly := [new] } })
            ∧ (k.assembly.length = 1 ∨ k.assembly.length = 2
                  ∨ (k.assembly.length = 3 ∧ 2 ≤ b.toNat ∧ b.toNat ≤ 242)
                  ∨ (4 ≤ k.assembly.length ∧ k.assembly.length + 1 < k.lenByte + 6) →
                exec (.byteReceived b began) s =
                  .next { s with link := { k with assembly := k.assembly ++ [new] } }))

/-- A LEN below 2 or above 242 discards the frame at that byte, counted, and DEST and SRC are looked at
again: a 0xC3 among them begins a new frame. A frame whose CRC fails is discarded and counted once, and the
bytes after its SYNC are looked at again in order, as `LooksAt` says whatever they hold: a 0xC3 among them
begins a new frame, which is discarded and counted again for a LEN out of range or a wrong CRC, ends as a whole
frame, or stays in assembly. Every byte looked at has this outcome. Where less than a whole frame is found the
state is written out. The CRC is right when the last two bytes are the CRC of DEST to the last payload byte,
high byte first: CRC-16, polynomial 0x1021, initial value 0xFFFF, not reflected, not inverted.

Of these the model's readings are: that BYTE_RECEIVED of the second CRC byte judges the frame like
FRAME_RECEIVED (notes/assumptions/24.md); that a frame found among the bytes ends at the kept moment of its last
byte, is judged by the group set kept with that byte, and restarts the guard to that moment
(notes/assumptions/13.md; R158 and R167 speak of the frame's end); that a byte carries the moment it began, by
which it is looked at and its gap judged (notes/assumptions/12.md); and that the second look begins at DEST
(R145, against the short line of 95_what_each_step_holds.md: notes/assumptions/20.md). -/
def Obligations.DiscardedFramesAreLookedAtAgain : Prop :=
  (∀ (s : State) (b : Byte) (began : Moment) (sync dest src : RxByte), s.resetting = none →
     s.link.listens began = true → s.link.gapPassed began = false →
     s.link.assembly = [sync, dest, src] → sync.value = 0xC3 → b.toNat < 2 ∨ 242 < b.toNat →
       let new : RxByte := { value := b, received := s.now, groups := s.link.groups }
       exec (.byteReceived b began) s =
         .next { s with
           link := { s.link with
             discarded := saturate 65535 s.link.discarded
             assembly :=
               if dest.value = 0xC3 then [dest, src, new]
               else if src.value = 0xC3 then [src, new] else [] } })
  ∧ (∀ (s : State) (b : Byte) (began : Moment), s.resetting = none →
       s.link.listens began = true → s.link.gapPassed began = false →
       let new : RxByte := { value := b, received := s.now, groups := s.link.groups }
       (∃ t : State, exec (.byteReceived b began) s = .next t
           ∧ LooksAt s (s.link.assembly ++ [new]) t)
         ∧ (s.link.assemblyOk → 4 ≤ s.link.assembly.length →
           s.link.assembly.length + 1 = s.link.lenByte + 6 →
           frameCrcOk (s.link.assembly.map RxByte.value ++ [b]) = false →
             let later := s.link.assembly.tail ++ [new]
             (∃ t : State, exec (.frameReceived b began) s = .next t
                 ∧ exec (.byteReceived b began) s = .next t ∧ LooksAt s.discardCounted later t)
               ∧ let k : Link :=
                   { s.link with
                     assembly := later.dropWhile fun x => x.value != 0xC3
                     discarded := saturate 65535 s.link.discarded }
                 k.assemblyOk →
                   exec (.frameReceived b began) s = .next { s with link := k }
                     ∧ exec (.byteReceived b began) s = .next { s with link := k }))
  ∧ (∀ values : List Byte, 3 ≤ values.length →
       (frameCrcOk values = true ↔
         ∃ sync covered, values = [sync] ++ covered
             ++ [(crc16 covered).extractLsb' 8 8, (crc16 covered).extractLsb' 0 8]))
  ∧ crc16 [] = 0xFFFF
  ∧ ∀ (bytes : List Byte) (b : Byte),
      crc16 (bytes ++ [b]) =
        Nat.repeat (fun r : BitVec 16 => if r.msb then (r <<< 1) ^^^ 0x1021 else r <<< 1) 8
          (crc16 bytes ^^^ (b.setWidth 16 <<< 8))

/-- The second CRC byte of a frame with a right CRC ends it: FRAME_RECEIVED ignores a frame not addressed to
the station, and so does BYTE_RECEIVED of that byte (that it judges the frame like FRAME_RECEIVED is the
model's choice, notes/assumptions/24.md); of an accepted one they restart the guard at the frame's end, and put
it at the newest end of a queue of fewer than 4, or drop it and count an overrun. DEST addresses the station
by its own non-zero address, by a joined group, or by broadcast, and by nothing else. -/
def Obligations.WholeFrameIsJudgedByItsDest : Prop :=
  (∀ (s : State) (b : Byte) (began : Moment), s.resetting = none →
     s.link.listens began = true → s.link.gapPassed began = false → s.link.assemblyOk →
     4 ≤ s.link.assembly.length → s.link.assembly.length + 1 = s.link.lenByte + 6 →
     frameCrcOk (s.link.assembly.map RxByte.value ++ [b]) = true →
       let v := s.link.assembly.map RxByte.value ++ [b]
       let quiet : State := { s with link := { s.link with assembly := [] } }
       let guarded : State :=
         { quiet with guard := if s.guard = .off then .off else .running s.now }
       let t : State :=
         match addressingOf (byteAt v 1) s.link.address s.link.groups with
         | none => quiet
         | some a =>
           if s.link.inbound.length < 4 then
             { guarded with
               link := { guarded.link with
                 inbound := s.link.inbound ++
                   [{ addressing := a, tag := byteAt v 4, kind := byteAt v 5,
                      payload := (v.drop 6).take (s.link.lenByte - 2), ended := s.now }] } }
           else
             { guarded with
               link := { guarded.link with overrun := saturate 65535 s.link.overrun } }
       exec (.frameReceived b began) s = .next t ∧ exec (.byteReceived b began) s = .next t)
  ∧ (∀ (dest : Byte) (address : BitVec 5) (groups : BitVec 16),
       (addressingOf dest address groups = some .broadcast ↔ dest = 0x7F)
         ∧ (addressingOf dest address groups = some .unicast ↔
             dest.toNat = address.toNat ∧ address ≠ 0)
         ∧ (∀ g : Fin 16, addressingOf dest address groups = some (.group g) ↔
             dest.toNat = 0x40 + g.val ∧ groups.getLsbD g.val = true))

/-- A framing error is passed over in HUNT and discards a frame in assembly; a gap of more than 4 character
times discards a frame in assembly without waiting for a byte. Each discard is counted once. (That GAP_TIMEOUT
changes nothing before its time is the model's reading, notes/assumptions/3.md.) -/
def Obligations.FramingErrorAndGapDiscard : Prop :=
  ∀ (s : State) (began : Moment), s.resetting = none →
    let cut : State :=
      { s with link := { s.link with assembly := [], discarded := saturate 65535 s.link.discarded } }
    (s.link.listens began = false ∨ s.link.assembly = [] → exec (.framingError began) s = .next s)
      ∧ (s.link.listens began = true → s.link.assembly ≠ [] →
          exec (.framingError began) s = .next cut)
      ∧ (s.link.assembly = [] → exec .gapTimeout s = .next s)
      ∧ (∀ last, s.link.assembly.getLast? = some last →
          exec .gapTimeout s =
            .next (if 4 * 10 * 1000000 < (s.now - last.received) * Config.bitRate s.link.rate
              then cut else s))

/-! ### The reply transmitter -/

/-- When the reply delay has passed after the end of the request frame, the transmitter begins to send the
reply of the slot; a frame in assembly is discarded and counted. A reply frame is 0xC3, 0x00, the station
address, the payload length plus 2, TAG, KIND, the payload, and the CRC over DEST to the last payload byte,
its high byte first. -/
def Obligations.ReplyBeginsAfterItsDelay : Prop :=
  (∀ (s : State) (x : ReplySlot), s.resetting = none → s.link.slot = some x →
     x.sendingSince = none →
     s.link.replyDelay.toNat * 10 * 1000000
       ≤ (s.now - x.requestEnd) * Config.bitRate s.link.rate →
       exec .replyDelayExpiry s =
         .next { s with
           link := { s.link with
             slot := some { x with sendingSince := some s.now }
             assembly := []
             discarded :=
               if s.link.assembly = [] then s.link.discarded
               else saturate 65535 s.link.discarded } })
  ∧ (∀ (address : BitVec 5) (r : Reply), r.payload.length ≤ 240 →
       let covered : List Byte :=
         [0x00, address.setWidth 8, BitVec.ofNat 8 (r.payload.length + 2), r.tag, r.kind] ++ r.payload
       r.frame address =
         [0xC3] ++ covered
           ++ [(crc16 covered).extractLsb' 8 8, (crc16 covered).extractLsb' 0 8])

/-- REPLY_END at the end of the last stop bit and COLLISION at a byte that reads back different release the
line and empty the reply slot; a collision is counted and leaves the reply in the repeat store. (That COLLISION
acts at any moment after its byte went out, whether later bytes have gone out or not, and that the release is
kept as the moment `listenFrom`, is the model's choice, notes/assumptions/19.md and 12.md.) After the reply of
a RESTART the full reset with cause REQUEST begins, in which no line is driven and ATTN is
released. -/
def Obligations.ReplyEndAndCollisionReleaseTheLine : Prop :=
  ∀ (s : State) (x : ReplySlot) (since : Moment), s.resetting = none →
    s.link.slot = some x → x.sendingSince = some since →
      (((x.reply.payload.length + 8) * 10 * 1000000
            ≤ (s.now - since) * Config.bitRate s.link.rate →
          (x.restart = false →
            exec .replyEnd s =
              .next { s with link := { s.link with slot := none, listenFrom := s.now } })
            ∧ (x.restart = true →
              ∃ t : State, exec .replyEnd s = .next t ∧ t.resetting = some .request ∧ t.driven = 0
                ∧ t.attn = false ∧ t.link.slot = none))
        ∧ ∀ (index : Nat) (sent back : Byte), (x.reply.frame s.link.address)[index]? = some sent →
          back ≠ sent →
          (index + 1) * 10 * 1000000 ≤ (s.now - since) * Config.bitRate s.link.rate →
            (x.restart = false →
              exec (.collision index back) s =
                .next { s with
                  link := { s.link with
                    slot := none, listenFrom := s.now
                    collision := saturate 65535 s.link.collision } })
              ∧ (x.restart = true →
                ∃ t : State, exec (.collision index back) s = .next t ∧ t.resetting = some .request
                  ∧ t.driven = 0 ∧ t.attn = false ∧ t.link.slot = none))

/-! ### The request decoder -/

/-- A unicast repeat is answered with the stored reply, whatever its kind; it is counted and executes
nothing. A group or broadcast repeat is discarded and counted, whatever its kind. -/
def Obligations.RepeatsExecuteNothing : Prop :=
  (∀ (s : State) (c : Instr) (f : Frame) (rest : List Frame) (x : StoredReply),
     s.atHead f rest → takesKind c f.kind → f.isUnicast → f.tag ≠ 0 →
     s.link.unicastStore = some x → x.tag = f.tag → x.kind = f.kind →
       exec c s =
         .next { s with
           link := { s.link with
             inbound := rest
             slot := some { reply := x.reply, requestEnd := f.ended, sendingSince := none,
                            restart := false }
             repeats := saturate 65535 s.link.repeats } })
  ∧ (∀ (s : State) (c : Instr) (f : Frame) (rest : List Frame),
       s.atHead f rest → takesKind c f.kind → ¬ f.isUnicast → f.tag ≠ 0 →
       s.link.groupStore = some (f.tag, f.kind) →
         exec c s =
           .next { s with
             link := { s.link with inbound := rest, repeats := saturate 65535 s.link.repeats } })

/-- A unicast frame that is no repeat is answered BAD_KIND when its kind is no request code, and BAD_LENGTH
when its length is not allowed for its kind, with the status alone; the reply is stored like any other, and
no block is touched. A group or broadcast frame that is no repeat and whose kind is unknown or not allowed
by group, or whose length is wrong, leaves the queue and does nothing else: nothing is counted and nothing
stored. Nine kinds are allowed by group. The codes and the lengths allowed are those of FIGURE 3 of
11_message_and_record_formats.md. -/
def Obligations.UnfitFramesReachNoBlock : Prop :=
  (∀ (s : State) (f : Frame) (rest : List Frame),
     s.atHead f rest → f.isUnicast → s.link.isRepeat f = false →
       ((∀ r : Request, f.kind ≠ r.code) → exec .badKind s = .next (s.answered f rest false [0x01]))
         ∧ ∀ r : Request, f.kind = r.code → r.lengthOk f.payload.length = false →
             exec r.command s = .next (s.answered f rest false [0x02]))
  ∧ (∀ (s : State) (c : Instr) (f : Frame) (rest : List Frame),
       s.atHead f rest → takesKind c f.kind → ¬ f.isUnicast → s.link.isRepeat f = false →
       (∀ r : Request, f.kind = r.code →
         r.groupAllowed = false ∨ r.lengthOk f.payload.length = false) →
         exec c s = .next { s with link := { s.link with inbound := rest } })
  ∧ (∀ r : Request, r.groupAllowed = true ↔
      r ∈ [.start, .pause, .resume, .stop, .abort, .setTime, .clear, .enableWatches, .arm])
  ∧ let figure3 : List (Request × Byte × List Nat) :=
      [(.identify, 0x01, [0]), (.setLink, 0x02, [1]), (.joinGroups, 0x03, [0, 1, 2, 3, 4]),
       (.linkStatus, 0x04, [1]), (.readTime, 0x08, [0]), (.setTime, 0x09, [4]),
       (.setGuard, 0x0A, [2]), (.restart, 0x0B, [0]), (.clear, 0x0C, [0]),
       (.storeSteps, 0x10, (List.range 12).map fun n => 2 + 18 * (n + 1)),
       (.eraseSteps, 0x11, [2 + 2]), (.readSteps, 0x12, [2 + 1]), (.pageStatus, 0x13, [1 + 1]),
       (.claimLines, 0x18, [1 + 5 + 5 + 5]), (.releaseLines, 0x19, [1]), (.readLines, 0x1A, [0]),
       (.setSegments, 0x20, (List.range 25).map fun n => 1 + 7 * n), (.readSegments, 0x21, [1]),
       (.setLane, 0x22, [6]), (.arm, 0x23, [1 + 1 + 4]), (.start, 0x28, [1]), (.pause, 0x29, [1]),
       (.resume, 0x2A, [1]), (.stop, 0x2B, [1]), (.abort, 0x2C, [1]), (.laneStatus, 0x2D, [1]),
       (.setWatch, 0x30, [1 + 17]), (.enableWatches, 0x31, [1 + 1]), (.watchStatus, 0x32, [0]),
       (.setRing, 0x38, [1 + 2]), (.readRing, 0x39, [1 + 4 + 1]), (.trimRing, 0x3A, [4]),
       (.setNoticeMask, 0x40, [2]), (.poll, 0x41, [4 + 1])]
    (∀ r : Request, r ∈ figure3.map Prod.fst)
      ∧ ∀ row ∈ figure3, row.1.code = row.2.1 ∧ ∀ n, row.1.lengthOk n = true ↔ n ∈ row.2.2

/-- The decoder takes no frame while the reply slot is filled or the queue is empty, and none but the
oldest: a request's command on a state whose oldest frame is of another kind changes nothing (the model's
reading, notes/assumptions/3.md and 4.md). -/
def Obligations.DecoderTakesOnlyTheOldestFrame : Prop :=
  ∀ (s : State) (c : Instr) (kind : Byte), takesKind c kind →
    (s.link.slot ≠ none ∨ s.link.inbound = [] → exec c s = .next s)
      ∧ ∀ f rest, s.link.inbound = f :: rest → ¬ takesKind c f.kind → exec c s = .next s

/-! ### Requests that read -/

/-- IDENTIFY, READ_TIME, READ_LINES and WATCH_STATUS change nothing and are answered OK with their fields:
identity and capacities; the timestamp now and at the frame's end; the sampled state, the driven lines and
each lane's claim; state, hit count and holdoff of each watch. -/
def Obligations.ReadsWithoutPayloadAnswer : Prop :=
  ∀ (s : State) (f : Frame) (rest : List Frame),
    (s.executes .identify f rest →
      exec .identify s = .next (s.answered f rest false
        ([0x00, 0x5A, 0x28, 0x00, 0x01] ++ [s.link.address.setWidth 8, s.link.rate.setWidth 8]
          ++ [40, 4, 8, 0x00, 0x08, 0x00, 0x02, 4, 24])))
      ∧ (s.executes .readTime f rest →
        exec .readTime s = .next (s.answered f rest false
          ([0x00] ++ wordBytes s.timestamp
            ++ wordBytes (s.timestamp - BitVec.ofNat 32 (s.now - f.ended)))))
      ∧ (s.executes .readLines f rest →
        exec .readLines s = .next (s.answered f rest false
          ([0x00] ++ linesBytes s.sampled ++ linesBytes s.driven
            ++ ([0, 1, 2, 3] : List LaneId).flatMap fun l =>
                linesBytes (s.driveSet l) ++ linesBytes (s.senseSet l)
                  ++ linesBytes (s.restValue l))))
      ∧ (s.executes .watchStatus f rest →
        exec .watchStatus s = .next (s.answered f rest false
          ([0x00] ++ ([0, 1, 2, 3, 4, 5, 6, 7] : List WatchId).flatMap fun w =>
            [(s.watch w).state.code] ++ leBytes 2 (s.watch w).hits
              ++ match (s.watch w).holdoffEnd with
                | some e => [0x01] ++ wordBytes e
                | none => [0x00, 0x00, 0x00, 0x00, 0x00])))

/-- A line is driven exactly while it is in a drive set of the claim map; it is driven to its rest level while
its lane is IDLE or ARMED, and to its bit of the drive value of the step the lane last began otherwise. The
sets that READ_LINES returns are those of the map. The level a line actually stands at, which the sampler
reads, is the one the outside gives it where the outside holds it, driven or not; else the driven level; and
high where it is undriven with nothing connected to it. (The form in which the outside is given is the model's,
notes/assumptions/6.md.) -/
def Obligations.LinesFollowTheClaimMap : Prop :=
  ∀ (s : State) (n : Nat), n < 40 →
    (s.claim n = .free → s.driven.getLsbD n = false)
      ∧ (∀ o, s.claim n = .sense o → s.driven.getLsbD n = false)
      ∧ (∀ o rest, s.claim n = .drive o rest →
          s.driven.getLsbD n = true
            ∧ s.drivenLevels.getLsbD n =
                if (s.lane o).state = .idle ∨ (s.lane o).state = .armed then rest
                else (s.lane o).driveValue.getLsbD n)
      ∧ (∀ l : LaneId,
          ((s.driveSet l).getLsbD n = true ↔ ∃ rest, s.claim n = .drive l rest)
            ∧ ((s.senseSet l).getLsbD n = true ↔ s.claim n = .sense l)
            ∧ ((s.restValue l).getLsbD n = true ↔ s.claim n = .drive l true))
      ∧ s.lineLevels.getLsbD n =
          if s.outside.held.getLsbD n then s.outside.levels.getLsbD n
          else if s.driven.getLsbD n then s.drivenLevels.getLsbD n
          else true

/-- READ_STEPS returns 1 to 12 slots in slot order, an EMPTY slot as 18 zero bytes; PAGE_STATUS returns for
1 to 128 pages the reference count and the filled flag. A range outside the store is BAD_FIELD with the
status alone. Neither changes anything. READ_RING returns, from the oldest record or from the first one
after a serial, up to the 1 to 9 records asked for, with the fill, their number and MORE; a wrong start mode
or count is BAD_FIELD with the status alone. It removes nothing. -/
def Obligations.StoreAndRingReadsAnswer : Prop :=
  (∀ (s : State) (f : Frame) (rest : List Frame),
     (s.executes .readSteps f rest →
       let first := fieldAt f.payload 0 2
       let n := (byteAt f.payload 2).toNat
       (2047 < first ∨ n = 0 ∨ 12 < n ∨ 2048 < first + n →
         exec .readSteps s = .next (s.answered f rest false [0x03]))
         ∧ (first ≤ 2047 → 1 ≤ n → n ≤ 12 → first + n ≤ 2048 →
           exec .readSteps s = .next (s.answered f rest false
             ([0x00] ++ leBytes 2 first ++ [byteOf n]
               ++ (List.range' first n).flatMap fun k => stepBytes (s.slot k)))))
       ∧ (s.executes .pageStatus f rest → (∀ p, s.refCount p ≤ 4) →
         let first := (byteAt f.payload 0).toNat
         let n := (byteAt f.payload 1).toNat
         (127 < first ∨ n = 0 ∨ 128 < n ∨ 128 < first + n →
           exec .pageStatus s = .next (s.answered f rest false [0x03]))
           ∧ (first ≤ 127 → 1 ≤ n → n ≤ 128 → first + n ≤ 128 →
             ∃ filled : Nat → Bool,
               (∀ p, filled p = true ↔ ∃ k, k / 16 = p ∧ s.slot k ≠ none)
                 ∧ exec .pageStatus s = .next (s.answered f rest false
                   ([0x00, byteOf first, byteOf n] ++ (List.range' first n).map fun p =>
                     byteOf (s.refCount p + if filled p then 128 else 0))))))
  ∧ (∀ (s : State) (f : Frame) (rest : List Frame), s.executes .readRing f rest →
       let mode := byteAt f.payload 0
       let serial := wordAt f.payload 1
       let n := (byteAt f.payload 5).toNat
       (1 < mode.toNat ∨ n = 0 ∨ 9 < n →
         exec .readRing s = .next (s.answered f rest false [0x03]))
         ∧ ∀ passed chosen, s.ring.records = passed ++ chosen → 1 ≤ n → n ≤ 9 →
             (mode = 0 ∧ passed = []
               ∨ mode = 1 ∧ (∀ r ∈ passed, atOrBefore r.serial serial = true)
                 ∧ (∀ r, chosen.head? = some r → atOrBefore r.serial serial = false)) →
             exec .readRing s = .next (s.answered f rest false
               ([0x00] ++ leBytes 2 s.ring.records.length ++ [byteOf (min n chosen.length)]
                 ++ [flagByte (decide (n < chosen.length))]
                 ++ (chosen.take n).flatMap recordBytes)))

/-- READ_SEGMENTS returns a lane's options and list, LANE_STATUS everything the lane holds of its run; a
lane number above 3 is BAD_FIELD with the status alone. Neither changes anything. -/
def Obligations.LaneReadsAnswer : Prop :=
  ∀ (s : State) (f : Frame) (rest : List Frame),
    (∀ r ∈ [Request.readSegments, Request.laneStatus], s.executes r f rest →
        3 < (byteAt f.payload 0).toNat →
        exec r.command s = .next (s.answered f rest false [0x03]))
      ∧ ∀ l : LaneId, (byteAt f.payload 0).toNat = l.val →
        let x := s.lane l
        (s.executes .readSegments f rest →
          exec .readSegments s = .next (s.answered f rest false
            ([0x00, byteOf l.val]
              ++ [x.options.tick.code, x.options.settle, checkpointByte x.options.checkpoint,
                  flagByte x.options.loop, flagByte x.options.record]
              ++ [byteOf x.segments.length] ++ x.segments.flatMap entryBytes)))
          ∧ (s.executes .laneStatus f rest →
            let left :=
              match x.current with
              | some st => st.time.toNat - (s.now - x.origin) / x.options.tick.micros
              | none => 0
            exec .laneStatus s = .next (s.answered f rest false
              ([0x00, byteOf l.val, x.state.code,
                  byteOf ((if x.pausePending then 1 else 0) + (if x.restartPending then 2 else 0)
                    + (if x.stopRequested then 4 else 0)),
                  byteOf x.position.entry, byteOf x.position.pass]
                ++ leBytes 2 x.position.offset ++ leBytes 2 left ++ leBytes 2 x.passCount
                ++ leBytes 2 x.faultCount
                ++ [x.lastResult.code, x.resumePoint.code, x.sources.setWidth 8]
                ++ wordBytes x.startTime ++ [flagByte x.triggerArmed]
                ++ match x.runSource with
                  | none => [0xFF, 0x00]
                  | some .request => [0x00, 0x00]
                  | some (.watch w) => [0x01, byteOf w.val]
                  | some (.cue k) => [0x02, byteOf k.val]
                  | some .time => [0x03, 0x00])))

/-! ### Requests to the link and to station control -/

/-- SET_LINK replaces the reply delay and returns it. LINK_STATUS returns the four counts, and clears them
after reading when its flag is 1; another flag is BAD_FIELD with the status alone and changes nothing.
JOIN_GROUPS replaces the group set with the numbers given and returns it as a mask; the first number above
15, or equal to an earlier one, refuses it with BAD_FIELD and its position, and the set stays. -/
def Obligations.LinkRequestsAnswer : Prop :=
  (∀ (s : State) (f : Frame) (rest : List Frame),
     let b := byteAt f.payload 0
     let counts :=
       [0x00] ++ leBytes 2 s.link.discarded ++ leBytes 2 s.link.overrun
         ++ leBytes 2 s.link.collision ++ leBytes 2 s.link.repeats
     (s.executes .setLink f rest →
       exec .setLink s =
         .next ({ s with link := { s.link with replyDelay := b } }.answered f rest false [0x00, b]))
       ∧ (s.executes .linkStatus f rest →
         (b = 0 → exec .linkStatus s = .next (s.answered f rest false counts))
           ∧ (b = 1 → exec .linkStatus s = .next
               ({ s with
                 link := { s.link with
                   discarded := 0, overrun := 0, collision := 0, repeats := 0 } }.answered
                 f rest false counts))
           ∧ (1 < b.toNat → exec .linkStatus s = .next (s.answered f rest false [0x03]))))
  ∧ (∀ (s : State) (f : Frame) (rest : List Frame), s.executes .joinGroups f rest →
       let p := f.payload
       let bad : Nat → Prop := fun i => 15 < (byteAt p i).toNat ∨ ∃ j, j < i ∧ byteAt p j = byteAt p i
       (∀ i, i < p.length → bad i → (∀ j, j < i → ¬ bad j) →
         exec .joinGroups s = .next (s.answered f rest false [0x03, byteOf i]))
         ∧ ((∀ i, i < p.length → ¬ bad i) →
           ∃ mask : BitVec 16, (∀ n, n < 16 → (mask.getLsbD n = true ↔ byteOf n ∈ p))
             ∧ exec .joinGroups s = .next
                 ({ s with link := { s.link with groups := mask } }.answered f rest false
                   ([0x00] ++ leBytes 2 mask.toNat))))

/-- SET_TIME loads T plus the microseconds since the frame's end. An ARMED lane whose armed time trigger is
now at or before the timestamp starts with source TIME, a running holdoff whose end is at or before it is
stopped, and nothing else changes but what the starts report. The reply carries the loaded timestamp and the
number of triggers fired. -/
def Obligations.SetTimeLoadsAndJudges : Prop :=
  ∀ (s : State) (f : Frame) (rest : List Frame), s.executes .setTime f rest → s.lanesOk →
    let loaded : Stamp := wordAt f.payload 0 + BitVec.ofNat 32 (s.now - f.ended)
    let fires : LaneId → Bool := fun l =>
      decide ((s.lane l).state = .armed) && (s.lane l).triggerArmed
        && atOrBefore (s.lane l).startTime loaded
    ∃ t : State, exec .setTime s =
        .next (t.concluded f rest ([0x00] ++ wordBytes loaded ++ [byteOf (countLanes fires)]))
      ∧ t = { s with
          timestamp := loaded, lanes := t.lanes, watches := t.watches, ring := t.ring,
          notices := t.notices }
      ∧ t.reportsAs ((laneIds.filter fires).foldl
          (fun r l => r.startReports l (some .time)) { s with timestamp := loaded })
      ∧ (∀ l, fires l = false → t.lane l = s.lane l)
      ∧ (∀ l st, fires l = true → s.slot (s.lane l).firstSlot = some st →
          (t.lane l).startedBy (s.lane l) .time st s.now)
      ∧ ∀ w, t.watch w =
          match (s.watch w).holdoffEnd with
          | some e =>
            if atOrBefore e loaded then { s.watch w with holdoffEnd := none } else s.watch w
          | none => s.watch w

/-- SET_GUARD replaces the period and starts the timer anew, or turns the guard OFF for 0, and returns the
period. RESTART is answered OK with the status alone, the reply marked to be followed by the full reset. -/
def Obligations.SetGuardAndRestartAnswer : Prop :=
  ∀ (s : State) (f : Frame) (rest : List Frame),
    let period : BitVec 16 := BitVec.ofNat 16 (fieldAt f.payload 0 2)
    (s.executes .setGuard f rest →
      exec .setGuard s = .next
        ({ s with
          guardPeriod := period
          guard := if period = 0 then .off else .running s.now }.answered f rest false
            ([0x00] ++ leBytes 2 period.toNat)))
      ∧ (s.executes .restart f rest →
        exec .restart s = .next (s.answered f rest true [0x00]))

/-- CLEAR leaves every lane and watch as after a full reset, every page count 0, every line FREE, and ring
and notice set empty, so ATTN is released; slots, link, station control, sampled state, ring settings,
serials and mask are kept. The reply carries the number of lanes that were not IDLE. -/
def Obligations.ClearEmptiesTheStation : Prop :=
  ∀ (s : State) (f : Frame) (rest : List Frame), s.executes .clear f rest →
    ∃ t : State, exec .clear s =
        .next (t.concluded f rest
          [0x00, byteOf (countLanes fun l => decide ((s.lane l).state ≠ .idle))])
      ∧ t = { s with
          refs := t.refs, claims := t.claims, lanes := t.lanes, watches := t.watches,
          ring := { s.ring with records := [] }, notices := { s.notices with entries := [] } }
      ∧ (∀ p, t.refCount p = 0) ∧ (∀ n, t.claim n = .free)
      ∧ (∀ l, t.lane l = Lane.cleared) ∧ (∀ w, t.watch w = Watch.cleared) ∧ t.attn = false

/-! ### Requests to the step store and to the line unit -/

/-- STORE_STEPS checks the run, the records and the pages in this order, refuses with BAD_FIELD or
PAGE_IN_USE and the detail of the first failure and then writes nothing, or writes the whole run and answers
OK with the number of records. ERASE_STEPS checks the run and the pages in this order, refuses with
BAD_FIELD or PAGE_IN_USE and then changes no slot, or makes the whole run EMPTY and answers OK with the
count. -/
def Obligations.StoreAndEraseAreAllOrNothing : Prop :=
  (∀ (s : State) (f : Frame) (rest : List Frame), s.executes .storeSteps f rest →
     let first := fieldAt f.payload 0 2
     let n := (f.payload.length - 2) / 18
     let record : Nat → Option StepRecord := fun i =>
       parseStep ((f.payload.drop (2 + 18 * i)).take 18)
     let inside : Prop := first ≤ 2047 ∧ first + n ≤ 2048
     let page : Nat → Prop := fun p => first / 16 ≤ p ∧ p ≤ (first + n - 1) / 16
     (¬ inside → exec .storeSteps s = .next (s.answered f rest false [0x03, 0xFF, 0xFF]))
       ∧ (inside → ∀ i, i < n → record i = none → (∀ j, j < i → record j ≠ none) →
           exec .storeSteps s = .next (s.answered f rest false ([0x03] ++ leBytes 2 i)))
       ∧ (inside → (∀ i, i < n → record i ≠ none) →
           (∀ p, page p → 0 < s.refCount p → (∀ q, page q → q < p → s.refCount q = 0) →
             exec .storeSteps s = .next (s.answered f rest false ([0x06] ++ leBytes 2 p)))
             ∧ ((∀ p, page p → s.refCount p = 0) →
               ∃ t : State, exec .storeSteps s = .next (t.answered f rest false ([0x00] ++ leBytes 2 n))
                 ∧ t = { s with slots := t.slots }
                 ∧ ∀ k, t.slot k =
                     if first ≤ k ∧ k < first + n then record (k - first) else s.slot k)))
  ∧ (∀ (s : State) (f : Frame) (rest : List Frame), s.executes .eraseSteps f rest →
       let first := fieldAt f.payload 0 2
       let n := fieldAt f.payload 2 2
       let inside : Prop := first ≤ 2047 ∧ 1 ≤ n ∧ first + n ≤ 2048
       let page : Nat → Prop := fun p => first / 16 ≤ p ∧ p ≤ (first + n - 1) / 16
       (¬ inside → exec .eraseSteps s = .next (s.answered f rest false [0x03, 0xFF, 0xFF]))
         ∧ (inside → ∀ p, page p → 0 < s.refCount p →
             (∀ q, page q → q < p → s.refCount q = 0) →
             exec .eraseSteps s = .next (s.answered f rest false ([0x06] ++ leBytes 2 p)))
         ∧ (inside → (∀ p, page p → s.refCount p = 0) →
             ∃ t : State, exec .eraseSteps s = .next (t.answered f rest false ([0x00] ++ leBytes 2 n))
               ∧ t = { s with slots := t.slots }
               ∧ ∀ k, t.slot k = if first ≤ k ∧ k < first + n then none else s.slot k))

/-- CLAIM_LINES checks the lane, its state, the overlap of the two sets and the other lanes' lines in this
order, refuses with the detail of the first failure and then changes nothing, or replaces the lane's claim
entirely, drives its new drive lines to their rest levels, drives no other line of its old claim, and
answers OK with the number of lines claimed. RELEASE_LINES frees every line of an IDLE lane, drives none of
them any more and answers OK with their number; a lane above 3 is BAD_FIELD, a lane that is not IDLE
WRONG_STATE, and the claims then stay. -/
def Obligations.ClaimAndReleaseReplaceTheClaim : Prop :=
  (∀ (s : State) (f : Frame) (rest : List Frame), s.executes .claimLines f rest →
     let drive := linesAt f.payload 1
     let sense := linesAt f.payload 6
     let level := linesAt f.payload 11
     let both : Nat → Prop := fun n => n < 40 ∧ drive.getLsbD n = true ∧ sense.getLsbD n = true
     (3 < (byteAt f.payload 0).toNat →
       exec .claimLines s = .next (s.answered f rest false [0x03, 0xFF]))
       ∧ ∀ l : LaneId, (byteAt f.payload 0).toNat = l.val →
         let taken : Nat → Prop := fun n =>
           n < 40 ∧ (drive.getLsbD n = true ∨ sense.getLsbD n = true)
             ∧ ∃ o, o ≠ l ∧ (s.claim n).owner = some o
         ((s.lane l).state ≠ .idle →
           exec .claimLines s = .next (s.answered f rest false [0x04, 0xFF]))
           ∧ ((s.lane l).state = .idle → ∀ n, both n → (∀ m, m < n → ¬ both m) →
             exec .claimLines s = .next (s.answered f rest false [0x03, byteOf n]))
           ∧ ((s.lane l).state = .idle → (∀ n, ¬ both n) → ∀ n, taken n →
             (∀ m, m < n → ¬ taken m) →
             exec .claimLines s = .next (s.answered f rest false [0x05, byteOf n]))
           ∧ ((s.lane l).state = .idle → (∀ n, ¬ both n) → (∀ n, ¬ taken n) →
             ∃ t : State, exec .claimLines s = .next (t.answered f rest false
                 [0x00, byteOf ((List.range 40).countP fun n =>
                   drive.getLsbD n || sense.getLsbD n)])
               ∧ t = { s with claims := t.claims }
               ∧ ∀ n, n < 40 →
                   (t.claim n =
                     if drive.getLsbD n then .drive l (level.getLsbD n)
                     else if sense.getLsbD n then .sense l
                     else if (s.claim n).owner = some l then .free
                     else s.claim n)
                   ∧ (drive.getLsbD n = true →
                       t.driven.getLsbD n = true ∧ t.drivenLevels.getLsbD n = level.getLsbD n)
                   ∧ (drive.getLsbD n = false → (s.claim n).owner = some l →
                       t.driven.getLsbD n = false)))
  ∧ (∀ (s : State) (f : Frame) (rest : List Frame), s.executes .releaseLines f rest →
       (3 < (byteAt f.payload 0).toNat →
         exec .releaseLines s = .next (s.answered f rest false [0x03, 0xFF]))
         ∧ ∀ l : LaneId, (byteAt f.payload 0).toNat = l.val →
           ((s.lane l).state ≠ .idle →
             exec .releaseLines s = .next (s.answered f rest false [0x04, 0xFF]))
             ∧ ((s.lane l).state = .idle →
               ∃ t : State, exec .releaseLines s = .next (t.answered f rest false
                   [0x00, byteOf ((List.range 40).countP fun n =>
                     decide ((s.claim n).owner = some l))])
                 ∧ t = { s with claims := t.claims }
                 ∧ ∀ n, n < 40 →
                     t.claim n = (if (s.claim n).owner = some l then .free else s.claim n)
                     ∧ ((s.claim n).owner = some l → t.driven.getLsbD n = false)))

/-! ### Lists, options and arming -/

/-- A segment list is valid for a lane when it has 1 to 24 entries, every field is in its range, no entry
cues the lane itself, and END stands on the last entry and on no other. -/
def Obligations.SegmentListValidity : Prop :=
  ∀ (l : LaneId) (list : List SegmentEntry),
    listValid l list = true ↔
      1 ≤ list.length ∧ list.length ≤ 24
        ∧ ∀ (i : Nat) (e : SegmentEntry), list[i]? = some e →
            e.first ≤ 2047 ∧ 1 ≤ e.count ∧ e.count ≤ 256 ∧ e.first + e.count ≤ 2048
              ∧ 1 ≤ e.passes ∧ e.passes ≤ 255 ∧ e.cue ≠ some l
              ∧ (e.isEnd = true ↔ i + 1 = list.length)

/-- SET_SEGMENTS checks lane, state, count, entries and the last END in this order, refuses with the detail
of the first failure and then keeps the old list, or replaces the list of an IDLE lane entirely and answers
OK with the number of entries. -/
def Obligations.SetSegmentsReplacesTheList : Prop :=
  ∀ (s : State) (f : Frame) (rest : List Frame), s.executes .setSegments f rest →
    let n := (f.payload.length - 1) / 7
    let entry : Nat → Option SegmentEntry := fun i =>
      parseEntry ((f.payload.drop (1 + 7 * i)).take 7)
    (3 < (byteAt f.payload 0).toNat →
      exec .setSegments s = .next (s.answered f rest false [0x03, 0xFF]))
      ∧ ∀ l : LaneId, (byteAt f.payload 0).toNat = l.val →
        let bad : Nat → Prop := fun i =>
          entry i = none ∨ ∃ e, entry i = some e ∧ (e.cue = some l ∨ (e.isEnd = true ∧ i + 1 ≠ n))
        ((s.lane l).state ≠ .idle →
          exec .setSegments s = .next (s.answered f rest false [0x04, 0xFF]))
          ∧ ((s.lane l).state = .idle → n = 0 →
            exec .setSegments s = .next (s.answered f rest false [0x07, 0xFF]))
          ∧ ((s.lane l).state = .idle → ∀ i, i < n → bad i → (∀ j, j < i → ¬ bad j) →
            exec .setSegments s = .next (s.answered f rest false [0x07, byteOf i]))
          ∧ ((s.lane l).state = .idle → 1 ≤ n → (∀ i, i < n → ¬ bad i) →
            (∀ e, entry (n - 1) = some e → e.isEnd = false →
              exec .setSegments s = .next (s.answered f rest false [0x07, byteOf (n - 1)]))
              ∧ (∀ e, entry (n - 1) = some e → e.isEnd = true →
                ∃ list : List SegmentEntry, list.length = n ∧ (∀ i, i < n → list[i]? = entry i)
                  ∧ exec .setSegments s = .next
                      ((s.setLane l { s.lane l with segments := list }).answered f rest false
                        [0x00, byteOf n])))

/-- SET_LANE checks lane, state and each option in payload order, refuses with the detail of the first
failure and then changes no option, or replaces all five options of an IDLE lane and answers OK with detail
0xFF. -/
def Obligations.SetLaneReplacesTheOptions : Prop :=
  ∀ (s : State) (f : Frame) (rest : List Frame), s.executes .setLane f rest →
    let b : Nat → Nat := fun i => (byteAt f.payload i).toNat
    let tickOk : Prop := b 1 ≤ 3
    let checkpointOk : Prop := b 3 ≤ 23 ∨ b 3 = 255
    let loopOk : Prop := b 4 ≤ 1
    let recordOk : Prop := b 5 ≤ 1
    (3 < b 0 → exec .setLane s = .next (s.answered f rest false [0x03, 0x00]))
      ∧ ∀ l : LaneId, b 0 = l.val →
        ((s.lane l).state ≠ .idle →
          exec .setLane s = .next (s.answered f rest false [0x04, 0xFF]))
          ∧ ((s.lane l).state = .idle →
            (¬ tickOk → exec .setLane s = .next (s.answered f rest false [0x03, 1]))
              ∧ (tickOk → ¬ checkpointOk →
                exec .setLane s = .next (s.answered f rest false [0x03, 3]))
              ∧ (tickOk → checkpointOk → ¬ loopOk →
                exec .setLane s = .next (s.answered f rest false [0x03, 4]))
              ∧ (tickOk → checkpointOk → loopOk → ¬ recordOk →
                exec .setLane s = .next (s.answered f rest false [0x03, 5]))
              ∧ (tickOk → checkpointOk → loopOk → recordOk →
                ∃ o : LaneOptions, o.tick.code.toNat = b 1 ∧ o.settle = byteAt f.payload 2
                  ∧ (∀ i, o.checkpoint = some i ↔ b 3 = i ∧ i ≤ 23)
                  ∧ (o.loop = true ↔ b 4 = 1) ∧ (o.record = true ↔ b 5 = 1)
                  ∧ exec .setLane s = .next
                      ((s.setLane l { s.lane l with options := o }).answered f rest false
                        [0x00, 0xFF])))

/-- ARM makes its six checks in order and refuses with the status and the detail of the first failure, and
then changes nothing, or takes the IDLE lane to ARMED: every page its list touches counts one more, sources
and start time are kept, the trigger is armed with TIME, both counts are 0, and the answer is OK with the
number of pages. -/
def Obligations.ArmChecksAndLocks : Prop :=
  ∀ (s : State) (f : Frame) (rest : List Frame), s.executes .arm f rest →
    let sources := byteAt f.payload 1
    let start := wordAt f.payload 2
    let ahead := (start - s.timestamp).toNat
    let late : Prop := sources.getLsbD 3 = true ∧ ¬ (1 ≤ ahead ∧ ahead ≤ 2147483647)
    (3 < (byteAt f.payload 0).toNat →
      exec .arm s = .next (s.concluded f rest [0x03, 0xFF, 0xFF]))
      ∧ ∀ l : LaneId, (byteAt f.payload 0).toNat = l.val →
        let x := s.lane l
        let gap : Nat → Prop := fun n => (∃ e ∈ x.segments, n ∈ e.slots) ∧ s.slot n = none
        (x.state ≠ .idle → exec .arm s = .next (s.concluded f rest [0x04, 0xFF, 0xFF]))
          ∧ (x.state = .idle → listValid l x.segments = false →
            exec .arm s = .next (s.concluded f rest [0x07, 0xFF, 0xFF]))
          ∧ (x.state = .idle → listValid l x.segments = true →
            (∀ n, gap n → (∀ m, m < n → ¬ gap m) →
              exec .arm s = .next (s.concluded f rest ([0x07] ++ leBytes 2 n)))
              ∧ ((∀ n, ¬ gap n) →
                (sources = 0 ∨ 16 ≤ sources.toNat →
                  exec .arm s = .next (s.concluded f rest [0x03, 0xFF, 0xFF]))
                  ∧ (sources ≠ 0 → sources.toNat < 16 → late →
                    exec .arm s = .next (s.concluded f rest [0x08, 0xFF, 0xFF]))
                  ∧ (sources ≠ 0 → sources.toNat < 16 → ¬ late →
                    ∃ t : State, exec .arm s = .next (t.concluded f rest
                        ([0x00] ++ leBytes 2 ((List.range 128).countP fun p => touches x.segments p)))
                      ∧ t = { s with refs := t.refs, lanes := t.lanes }
                      ∧ t.keepsOtherLanes s l
                      ∧ (∀ p, p < 128 → t.refCount p =
                          s.refCount p + if touches x.segments p then 1 else 0)
                      ∧ t.lane l =
                          { x with
                            state := .armed, sources := sources.setWidth 4
                            startTime := if sources.getLsbD 3 then start else 0
                            triggerArmed := sources.getLsbD 3
                            passCount := 0, faultCount := 0
                            position := { entry := 0, pass := 0, offset := 0 } })))

/-! ### The lane-set requests -/

/-- A lane set that is empty or has a bit above bit 3 refuses START, PAUSE, RESUME, STOP and ABORT with
BAD_FIELD and the status alone, and no lane is touched. PAUSE sets pause-pending on each RUNNING lane of its
set (PENDING); STOP sets stop-requested and clears restart-pending on each RUNNING, PAUSED or HALTED one
(SET); both leave every other lane of the set as it is (NO_EFFECT), and nothing but these flags changes. -/
def Obligations.LaneSetsAndTheFlagsOfPauseAndStop : Prop :=
  (∀ (s : State) (f : Frame) (rest : List Frame) (r : Request),
     r ∈ [Request.start, .pause, .resume, .stop, .abort] → s.executes r f rest →
     byteAt f.payload 0 = 0 ∨ 16 ≤ (byteAt f.payload 0).toNat →
       exec r.command s = .next (s.concluded f rest [0x03]))
  ∧ (∀ (s : State) (f : Frame) (rest : List Frame),
       byteAt f.payload 0 ≠ 0 → (byteAt f.payload 0).toNat < 16 →
       let named : LaneId → Bool := fun l => (byteAt f.payload 0).getLsbD l.val
       (s.executes .pause f rest →
         ∃ (t : State) (outcome : LaneId → Byte),
           exec .pause s = .next (t.concluded f rest
               ([0x00, byteAt f.payload 0] ++ ([0, 1, 2, 3] : List LaneId).map outcome))
             ∧ t = { s with lanes := t.lanes }
             ∧ ∀ l,
               (named l = false → t.lane l = s.lane l ∧ outcome l = 0)
                 ∧ (named l = true → (s.lane l).state = .running →
                     t.lane l = { s.lane l with pausePending := true } ∧ outcome l = 4)
                 ∧ (named l = true → (s.lane l).state ≠ .running →
                     t.lane l = s.lane l ∧ outcome l = 5))
         ∧ (s.executes .stop f rest →
           ∃ (t : State) (outcome : LaneId → Byte),
             exec .stop s = .next (t.concluded f rest
                 ([0x00, byteAt f.payload 0] ++ ([0, 1, 2, 3] : List LaneId).map outcome))
               ∧ t = { s with lanes := t.lanes }
               ∧ ∀ l,
                 (named l = false → t.lane l = s.lane l ∧ outcome l = 0)
                   ∧ (named l = true → (s.lane l).state = .running ∨ (s.lane l).state = .paused
                         ∨ (s.lane l).state = .halted →
                       t.lane l = { s.lane l with stopRequested := true, restartPending := false }
                         ∧ outcome l = 8)
                   ∧ (named l = true → (s.lane l).state = .idle ∨ (s.lane l).state = .armed →
                       t.lane l = s.lane l ∧ outcome l = 5)))

/-- START starts each ARMED lane of its set that has REQUEST, with the reports of a start in lane order
(STARTED); leaves an ARMED lane without REQUEST and an IDLE one as they are (REFUSED); queues a restart at
any other (QUEUED). A lane outside the set is NOT_NAMED and unchanged. -/
def Obligations.StartActsByLaneState : Prop :=
  ∀ (s : State) (f : Frame) (rest : List Frame), s.executes .start f rest →
    byteAt f.payload 0 ≠ 0 → (byteAt f.payload 0).toNat < 16 →
    let named : LaneId → Bool := fun l => (byteAt f.payload 0).getLsbD l.val
    let starts : LaneId → Bool := fun l =>
      named l && decide ((s.lane l).state = .armed) && (s.lane l).sources.getLsbD 0
    ∃ (t : State) (outcome : LaneId → Byte),
      exec .start s = .next (t.concluded f rest
          ([0x00, byteAt f.payload 0] ++ ([0, 1, 2, 3] : List LaneId).map outcome))
        ∧ t = { s with lanes := t.lanes, ring := t.ring, notices := t.notices }
        ∧ t.reportsAs ((laneIds.filter starts).foldl
            (fun r l => r.startReports l (some .request)) s)
        ∧ ∀ l,
          (named l = false → t.lane l = s.lane l ∧ outcome l = 0)
            ∧ (starts l = true → outcome l = 1
              ∧ ∀ st, s.slot (s.lane l).firstSlot = some st →
                  (t.lane l).startedBy (s.lane l) .request st s.now)
            ∧ (named l = true → (s.lane l).state = .armed → (s.lane l).sources.getLsbD 0 = false →
                t.lane l = s.lane l ∧ outcome l = 2)
            ∧ (named l = true → (s.lane l).state = .idle → t.lane l = s.lane l ∧ outcome l = 2)
            ∧ (named l = true → (s.lane l).state = .running ∨ (s.lane l).state = .paused
                  ∨ (s.lane l).state = .halted →
                t.lane l = { s.lane l with restartPending := true, stopRequested := false }
                  ∧ outcome l = 3)

/-- RESUME takes each PAUSED or HALTED lane of its set back to RUNNING (RESUMED), cancels a pending pause of a
RUNNING one (CANCELLED), and leaves every other lane of the set as it is (NO_EFFECT), lane by lane, in lane
order, each lane finding what the one before has left. A lane goes on by its resume point: STEP begins the step
at the held position at once, COMPLETION performs the entry's completion from its first act, AFTER_HALT goes on
after the HALT flag. Where every lane taken back holds STEP, nothing but lanes changes, and each lane's outcome
follows from its own state. -/
def Obligations.ResumeGoesOnByTheResumePoint : Prop :=
  (∀ (s : State) (f : Frame) (rest : List Frame), s.executes .resume f rest →
     byteAt f.payload 0 ≠ 0 → (byteAt f.payload 0).toNat < 16 →
     let named : LaneId → Bool := fun l => (byteAt f.payload 0).getLsbD l.val
     (∀ l, named l = true → (s.lane l).state = .paused ∨ (s.lane l).state = .halted →
       (s.lane l).resumePoint = .step) →
     ∃ (t : State) (outcome : LaneId → Byte),
       exec .resume s = .next (t.concluded f rest
           ([0x00, byteAt f.payload 0] ++ ([0, 1, 2, 3] : List LaneId).map outcome))
         ∧ t = { s with lanes := t.lanes }
         ∧ ∀ l,
           (named l = false → t.lane l = s.lane l ∧ outcome l = 0)
             ∧ (named l = true → (s.lane l).state = .paused ∨ (s.lane l).state = .halted →
                 outcome l = 6 ∧ (t.lane l).state = .running ∧ (t.lane l).resumePoint = .none
                   ∧ (t.lane l).sameRun (s.lane l)
                   ∧ (t.lane l).pausePending = (s.lane l).pausePending
                   ∧ ∀ st, s.slot (s.lane l).slotNumber = some st →
                       (t.lane l).begins st (s.lane l).position s.now)
             ∧ (named l = true → (s.lane l).state = .running → (s.lane l).pausePending = true →
                 t.lane l = { s.lane l with pausePending := false } ∧ outcome l = 7)
             ∧ (named l = true → (s.lane l).state = .running → (s.lane l).pausePending = false →
                 t.lane l = s.lane l ∧ outcome l = 5)
             ∧ (named l = true → (s.lane l).state = .idle ∨ (s.lane l).state = .armed →
                 t.lane l = s.lane l ∧ outcome l = 5))
  ∧ (∀ (s : State) (f : Frame) (rest : List Frame), s.executes .resume f rest →
       byteAt f.payload 0 ≠ 0 → (byteAt f.payload 0).toNat < 16 →
       ∃ (u : Nat → State) (outcome : LaneId → Byte),
         u 0 = { s with link := { s.link with inbound := rest } }
           ∧ (∀ l : LaneId, (u (l.val + 1)).takesResume (u l.val) l
               ((byteAt f.payload 0).getLsbD l.val) (outcome l))
           ∧ exec .resume s = .next ((u 4).concluded f rest
               ([0x00, byteAt f.payload 0] ++ ([0, 1, 2, 3] : List LaneId).map outcome)))

/-- ABORT ends the run of each lane of its set that is not IDLE with result ABORTED_REQUEST, reports and
page releases in lane order (ABORTED), and leaves an IDLE one as it is (NO_EFFECT). -/
def Obligations.AbortEndsTheRuns : Prop :=
  ∀ (s : State) (f : Frame) (rest : List Frame), s.executes .abort f rest →
    byteAt f.payload 0 ≠ 0 → (byteAt f.payload 0).toNat < 16 →
    let named : LaneId → Bool := fun l => (byteAt f.payload 0).getLsbD l.val
    let ends : LaneId → Bool := fun l => named l && decide ((s.lane l).state ≠ .idle)
    ∃ (t : State) (outcome : LaneId → Byte),
      exec .abort s = .next (t.concluded f rest
          ([0x00, byteAt f.payload 0] ++ ([0, 1, 2, 3] : List LaneId).map outcome))
        ∧ t.keepsBesideLanes s
        ∧ t.reportsAs ((laneIds.filter ends).foldl
            (fun r l => r.endReports l .abortedRequest) s)
        ∧ (∀ p, p < 128 → t.refCount p =
            s.refCount p - countLanes fun l => ends l && touches (s.lane l).segments p)
        ∧ ∀ l,
          (ends l = false → t.lane l = s.lane l)
            ∧ (ends l = true → (t.lane l).endedAs (s.lane l) .abortedRequest
                ∧ (t.lane l).faultCount = (s.lane l).faultCount)
            ∧ outcome l = if named l then (if ends l then 9 else 5) else 0

/-! ### Watches, ring and notices: requests -/

/-- SET_WATCH makes the checks of R109 in order and refuses with the detail of the first failure, and then
changes nothing, or replaces the watch's definition and leaves the watch DISABLED, its hit count 0 and its
holdoff stopped, with the watch number as detail. -/
def Obligations.SetWatchDefines : Prop :=
  ∀ (s : State) (f : Frame) (rest : List Frame), s.executes .setWatch f rest →
    let p := f.payload
    let b : Nat → Nat := fun i => (byteAt p i).toNat
    let lane : Bool := (byteAt p 15).getLsbD 2
    let checks : List (Prop × Byte) :=
      [(linesAt p 1 ≠ 0, 1), (b 11 ≤ 2, 2), (b 12 ≤ 1, 3), (b 15 < 8, 4),
       (lane = true → b 16 ≤ 3, 5), (lane = true → b 17 ≤ 2, 6)]
    (7 < b 0 → exec .setWatch s = .next (s.answered f rest false [0x03, 0xFF]))
      ∧ ∀ w : WatchId, b 0 = w.val →
        (∀ before c after, checks = before ++ c :: after → (∀ x ∈ before, x.1) → ¬ c.1 →
          exec .setWatch s = .next (s.answered f rest false [0x03, c.2]))
          ∧ ((∀ x ∈ checks, x.1) →
            ∃ d : WatchDef, d.mask = linesAt p 1 ∧ d.pattern = linesAt p 6
              ∧ (d.condition = .enter ↔ b 11 = 0) ∧ (d.condition = .leave ↔ b 11 = 1)
              ∧ (d.condition = .change ↔ b 11 = 2) ∧ (d.oneShot = true ↔ b 12 = 0)
              ∧ d.holdoff.toNat = fieldAt p 13 2 ∧ d.record = (byteAt p 15).getLsbD 0
              ∧ d.notify = (byteAt p 15).getLsbD 1
              ∧ (∀ l a, d.laneAction = some (l, a) ↔
                  lane = true ∧ b 16 = l.val
                    ∧ b 17 = (match a with | .start => 0 | .pause => 1 | .abort => 2))
              ∧ exec .setWatch s = .next
                  ((s.setWatch w
                    { state := .disabled, defn := some d, hits := 0, holdoffEnd := none }).answered
                    f rest false [0x00, byteAt p 0]))

/-- ENABLE_WATCHES refuses an empty set and an enable byte above 1 with BAD_FIELD and acts on no watch;
otherwise each defined watch of the set becomes ENABLED or DISABLED, keeping definition, hit count and
holdoff, an UNDEFINED one stays so, and the reply carries each watch's outcome. -/
def Obligations.EnableWatchesSwitches : Prop :=
  ∀ (s : State) (f : Frame) (rest : List Frame), s.executes .enableWatches f rest →
    let set := byteAt f.payload 0
    let enable := byteAt f.payload 1
    (set = 0 ∨ 1 < enable.toNat →
      exec .enableWatches s = .next (s.concluded f rest [0x03]))
      ∧ (set ≠ 0 → enable.toNat ≤ 1 →
        ∃ (t : State) (outcome : WatchId → Byte),
          exec .enableWatches s = .next (t.concluded f rest
              ([0x00, set] ++ ([0, 1, 2, 3, 4, 5, 6, 7] : List WatchId).map outcome))
            ∧ t = { s with watches := t.watches }
            ∧ ∀ w,
              (set.getLsbD w.val = false → t.watch w = s.watch w ∧ outcome w = 0)
                ∧ (set.getLsbD w.val = true → (s.watch w).state = .undefined →
                    t.watch w = s.watch w ∧ outcome w = 3)
                ∧ (set.getLsbD w.val = true → (s.watch w).state ≠ .undefined → enable = 1 →
                    t.watch w = { s.watch w with state := .enabled } ∧ outcome w = 1)
                ∧ (set.getLsbD w.val = true → (s.watch w).state ≠ .undefined → enable = 0 →
                    t.watch w = { s.watch w with state := .disabled } ∧ outcome w = 2))

/-- SET_RING checks policy and threshold in this order and refuses with detail 1 or 2, or replaces both and
answers OK with detail 0, policy, threshold, fill and next serial. TRIM_RING removes from the oldest end the
records at or before its serial up to the first after it, and returns the number removed, the fill and the
next serial. At or before means a distance below 2^31, forward. -/
def Obligations.SetRingAndTrimRingAnswer : Prop :=
  (∀ a b : Serial, atOrBefore a b = true ↔ (b - a).toNat < 2 ^ 31)
  ∧ ∀ (s : State) (f : Frame) (rest : List Frame),
    (s.executes .setRing f rest →
      let policy := byteAt f.payload 0
      let threshold := fieldAt f.payload 1 2
      (1 < policy.toNat → exec .setRing s = .next (s.answered f rest false [0x03, 1]))
        ∧ (policy.toNat ≤ 1 → threshold = 0 ∨ 512 < threshold →
          exec .setRing s = .next (s.answered f rest false [0x03, 2]))
        ∧ (policy.toNat ≤ 1 → 1 ≤ threshold → threshold ≤ 512 →
          exec .setRing s = .next
            ({ s with
              ring := { s.ring with
                policy := if policy = 0 then .keepOldest else .keepNewest
                threshold := threshold } }.answered f rest false
              ([0x00, 0x00, policy] ++ leBytes 2 threshold ++ leBytes 2 s.ring.records.length
                ++ wordBytes s.ring.nextSerial))))
      ∧ (s.executes .trimRing f rest →
        ∀ gone left, s.ring.records = gone ++ left →
          (∀ r ∈ gone, atOrBefore r.serial (wordAt f.payload 0) = true) →
          (∀ r, left.head? = some r → atOrBefore r.serial (wordAt f.payload 0) = false) →
            exec .trimRing s = .next
              ({ s with ring := { s.ring with records := left } }.answered f rest false
                ([0x00] ++ leBytes 2 gone.length ++ leBytes 2 left.length
                  ++ wordBytes s.ring.nextSerial)))

/-- SET_NOTICE_MASK refuses a mask with a bit above 11 with BAD_FIELD and the status alone; otherwise it
replaces the mask, STATION_RESTARTED always in it, removes the entries of the kinds disabled and no other,
returns their number and the mask, and releases ATTN when it empties the set. -/
def Obligations.SetNoticeMaskRemovesDisabledKinds : Prop :=
  ∀ (s : State) (f : Frame) (rest : List Frame), s.executes .setNoticeMask f rest →
    let asked := fieldAt f.payload 0 2
    (4096 ≤ asked → exec .setNoticeMask s = .next (s.answered f rest false [0x03]))
      ∧ (asked < 4096 →
        let mask : BitVec 16 := BitVec.ofNat 16 asked ||| 0x0800#16
        let kept := s.notices.entries.filter fun e => mask.getLsbD e.key.kindCode
        let t : State := { s with notices := { s.notices with mask := mask, entries := kept } }
        exec .setNoticeMask s = .next (t.answered f rest false
            ([0x00, byteOf (s.notices.entries.length - kept.length)] ++ leBytes 2 mask.toNat))
          ∧ (kept = [] → t.attn = false))

/-- POLL refuses a valid byte above 1 with BAD_FIELD, removing and marking nothing. Otherwise it removes, if
the byte is 1, the reported entries at or before its serial and no other, then lists up to 12 entries from
the oldest end and marks them reported, and changes no serial, count or detail. A set left empty releases
ATTN. -/
def Obligations.PollRemovesThenLists : Prop :=
  ∀ (s : State) (f : Frame) (rest : List Frame), s.executes .poll f rest →
    let valid := byteAt f.payload 4
    let kept := s.notices.entries.filter fun e =>
      !(valid == 1 && e.reported && atOrBefore e.serial (wordAt f.payload 0))
    (1 < valid.toNat → exec .poll s = .next (s.answered f rest false [0x03]))
      ∧ (valid.toNat ≤ 1 →
        let t : State :=
          { s with
            notices := { s.notices with
              entries :=
                (kept.take 12).map (fun e : NoticeEntry => { e with reported := true })
                  ++ kept.drop 12 } }
        exec .poll s = .next (t.answered f rest false
            ([0x00, byteOf (s.notices.entries.length - kept.length), byteOf kept.length,
                byteOf (min 12 kept.length), flagByte (decide (12 < kept.length))]
              ++ (kept.take 12).flatMap noticeBytes))
          ∧ (kept = [] → t.attn = false))

/-! ### Ring and notice set -/

/-- A record handed to the ring takes the next serial. Below 512 it is stored at the newest end, and
RING_LEVEL is raised when the fill becomes the threshold; at 512 it is refused under KEEP_OLDEST, or takes
the place of the oldest under KEEP_NEWEST, and RING_LOSS names the record lost. -/
def Obligations.RingTakesARecord : Prop :=
  ∀ (s : State) (body : RecordBody),
    let new : CaptureRecord := { serial := s.ring.nextSerial, stamp := s.timestamp, body := body }
    let next := s.ring.nextSerial + 1
    let n := s.ring.records.length
    (n < 512 →
      s.takeRecord body =
        { s with
          ring := { s.ring with records := s.ring.records ++ [new], nextSerial := next }
          notices :=
            if n + 1 = s.ring.threshold then s.notices.raise .ringLevel (.count (n + 1))
            else s.notices })
      ∧ (512 ≤ n → s.ring.policy = .keepOldest →
        s.takeRecord body =
          { s with
            ring := { s.ring with nextSerial := next }
            notices := s.notices.raise .ringLoss (.serial new.serial) })
      ∧ ∀ oldest others, 512 ≤ n → s.ring.policy = .keepNewest →
          s.ring.records = oldest :: others →
          s.takeRecord body =
            { s with
              ring := { s.ring with records := others ++ [new], nextSerial := next }
              notices := s.notices.raise .ringLoss (.serial oldest.serial) }

/-- A notice of a kind that is not enabled changes nothing. One of an enabled kind, or STATION_RESTARTED,
takes the next serial and goes to the newest end: as a new entry, or in place of the entry of its kind and
source, with one occurrence more up to 255; reported is clear, and every other entry stays. -/
def Obligations.NoticeSetTakesANotice : Prop :=
  ∀ (n : NoticeSet) (key : NoticeKey) (detail : NoticeDetail),
    (n.mask.getLsbD key.kindCode = false → key ≠ .stationRestarted → n.raise key detail = n)
      ∧ (n.mask.getLsbD key.kindCode = true ∨ key = .stationRestarted →
        ((∀ e ∈ n.entries, e.key ≠ key) →
          n.raise key detail =
            { n with
              entries := n.entries ++
                [{ serial := n.nextSerial, key := key, count := 1, detail := detail,
                   reported := false }]
              nextSerial := n.nextSerial + 1 })
          ∧ ∀ before old after, n.entries = before ++ old :: after → old.key = key →
              (∀ e ∈ before ++ after, e.key ≠ key) →
              n.raise key detail =
                { n with
                  entries := before ++ after ++
                    [{ serial := n.nextSerial, key := key,
                       count := if old.count < 255 then old.count + 1 else 255,
                       detail := detail, reported := false }]
                  nextSerial := n.nextSerial + 1 })

/-- Capture records travel as 26 bytes and notice entries as 11, in the layouts of R181 and R182, every
unused byte 0. Kinds, sources and named fields, here and in the replies, have the codes of R178, R181 and
R182. -/
def Obligations.RecordAndNoticeLayouts : Prop :=
  (∀ r : CaptureRecord, ∃ details : List Byte, details.length ≤ 16
      ∧ recordBytes r = wordBytes r.serial ++ wordBytes r.stamp
          ++ [r.body.kindCode, r.body.sourceCode] ++ details
          ++ List.replicate (16 - details.length) 0x00
      ∧ details =
          match r.body with
          | .stepFault _ p check seen off =>
            [byteOf p.entry, byteOf p.pass] ++ leBytes 2 p.offset ++ [byteOf check.code]
              ++ linesBytes seen ++ linesBytes off
          | .awaitTimeout _ p check seen off =>
            [byteOf p.entry, byteOf p.pass] ++ leBytes 2 p.offset ++ [byteOf check.code]
              ++ linesBytes seen ++ linesBytes off
          | .watchHit _ seen changed => linesBytes seen ++ linesBytes changed
          | .laneStart _ source passes => sourceBytes source ++ leBytes 2 passes
          | .laneEnd _ result passes faults => [result.code] ++ leBytes 2 passes ++ leBytes 2 faults
          | .guard lanes => [byteOf lanes])
    ∧ (∀ e : NoticeEntry, ∃ detail : List Byte, detail.length ≤ 4
      ∧ noticeBytes e = wordBytes e.serial ++ [byteOf e.key.kindCode, e.key.sourceCode, byteOf e.count]
          ++ detail ++ List.replicate (4 - detail.length) 0x00
      ∧ detail =
          match e.detail with
          | .result r => [r.code]
          | .entryIndex i => [byteOf i]
          | .position p => [byteOf p.entry, byteOf p.pass] ++ leBytes 2 p.offset
          | .count n => leBytes 2 n
          | .lanes n => [byteOf n]
          | .serial n => wordBytes n
          | .cause c => [c.code])
    ∧ (∀ r : RecordBody, (r.kindCode, r.sourceCode) =
        match r with
        | .stepFault l .. => (1, byteOf l.val)
        | .awaitTimeout l .. => (2, byteOf l.val)
        | .watchHit w .. => (3, byteOf (0x10 + w.val))
        | .laneStart l .. => (4, byteOf l.val)
        | .laneEnd l .. => (5, byteOf l.val)
        | .guard .. => (6, 0x30))
    ∧ (∀ l : LaneId, ([.done, .mark, .halted, .paused, .checkpointReached, .checkpointPassed,
          .fault] : List LaneNotice).map (fun k => (NoticeKey.lane k l).kindCode) = [0, 1, 2, 3, 4, 5, 6]
        ∧ ∀ k, (NoticeKey.lane k l).sourceCode = byteOf l.val)
    ∧ (∀ w, (NoticeKey.watchHit w).kindCode = 7
        ∧ (NoticeKey.watchHit w).sourceCode = byteOf (0x10 + w.val))
    ∧ ([.ringLevel, .ringLoss, .guardExpired, .stationRestarted] : List NoticeKey).map
        (fun k => (k.kindCode, k.sourceCode)) = [(8, 0x20), (9, 0x20), (10, 0x30), (11, 0x30)]
    ∧ ([.idle, .armed, .running, .paused, .halted] : List LaneState).map LaneState.code
        = [0, 1, 2, 3, 4]
    ∧ ([.none, .completed, .abortedRequest, .abortedFault, .abortedWatch, .abortedGuard]
        : List Result).map Result.code = [0, 1, 2, 3, 4, 5]
    ∧ ([.none, .step, .completion, .afterHalt] : List ResumePoint).map ResumePoint.code
        = [0, 1, 2, 3]
    ∧ sourceBytes none = [0xFF, 0] ∧ sourceBytes (some .request) = [0, 0]
    ∧ (∀ w, sourceBytes (some (.watch w)) = [1, byteOf w.val])
    ∧ (∀ l, sourceBytes (some (.cue l)) = [2, byteOf l.val]) ∧ sourceBytes (some .time) = [3, 0]
    ∧ ([.us1, .us10, .us100, .us1000] : List TickUnit).map (fun u => (u.code, u.micros))
        = [(0, 1), (1, 10), (2, 100), (3, 1000)]
    ∧ checkpointByte none = 0xFF ∧ (∀ i, checkpointByte (some i) = byteOf i)
    ∧ ([.none, .atEnd, .throughout, .awaitMatch] : List Check).map Check.code = [0, 1, 2, 3]
    ∧ ([.undefined, .disabled, .enabled, .spent] : List WatchState).map WatchState.code
        = [0, 1, 2, 3]
    ∧ ([.power, .pin, .request] : List ResetCause).map ResetCause.code = [0, 1, 2]
    ∧ ([0, 1, 2, 3] : List (BitVec 2)).map Config.bitRate = [115200, 230400, 460800, 921600]

/-! ### Timers, comparisons and runs -/

/-- HOLD_EXPIRY ends a DRIVE step that does not fault there: one with check NONE, one with check THROUGHOUT,
one with check AT_END whose comparison matches or whose settle is not smaller than its hold. The lane goes
on to the next step or pass, or to its entry's completion, where MARK, cue, checkpoint, HALT flag and end
decision follow in order. -/
def Obligations.HoldExpiryEndsTheStep : Prop :=
  ∀ (s : State) (l : LaneId) (st : StepRecord) (due : Moment),
    s.timerRunsOut l st due → st.kind = .drive →
    (st.check = .atEnd →
      st.off s.sampled = 0 ∨ ∀ e, (s.lane l).settleEnd = some e → due ≤ e) →
      ∃ t : State, exec (.holdExpiry l) s = .next t ∧ t.endsStep s l

/-- The cue of an entry that completes reaches the cued lane at that moment: an ARMED lane with CUE in its
sources is started by it, with the sending lane as source; a lane in any other case is left as it is. -/
def Obligations.CueStartsAnArmedLane : Prop :=
  ∀ (s : State) (l k : LaneId) (st : StepRecord) (due : Moment),
    s.timerRunsOut l st due → st.kind = .drive →
    (st.check = .atEnd →
      st.off s.sampled = 0 ∨ ∀ e, (s.lane l).settleEnd = some e → due ≤ e) →
    (s.lane l).endsEntry →
    ((s.lane l).entryAt (s.lane l).position.entry).cue = some k → k ≠ l →
      ∃ t : State, exec (.holdExpiry l) s = .next t
        ∧ ((s.lane k).state = .armed → (s.lane k).sources.getLsbD 2 = true →
            ∀ first, s.slot (s.lane k).firstSlot = some first →
              (t.lane k).startedBy (s.lane k) (.cue l) first s.now)
        ∧ ((s.lane k).state ≠ .armed ∨ (s.lane k).sources.getLsbD 2 = false →
            t.lane k = s.lane k)
        ∧ ∀ j, j ≠ l → j ≠ k → t.lane j = s.lane j

/-- A fault (a failed AT_END comparison, an AWAIT limit that expires, a failed THROUGHOUT comparison) makes
its capture record, raises LANE_FAULT and is counted, in this order; then HALT halts the lane at the next
position, ABORT ends the run with ABORTED_FAULT, GO_ON lets a THROUGHOUT step run on without checking and
ends any other step. -/
def Obligations.FaultIsReportedThenActedOn : Prop :=
  ∀ (s s' : State) (c : Instr) (l : LaneId) (st : StepRecord) (body : RecordBody),
    s.faults c l st body s' →
      ∃ t : State, exec c s = .next t ∧ t.followsFault s' l st body

/-- At its opening comparison, and at every change event while it checks, a THROUGHOUT step whose expected
lines stand goes on checking; an AWAIT step ends at a match and goes on checking at a failure, without
record or notice. CHANGE_EVENT takes the one sample of its microsecond from the level of every line: one equal
to the sampled state makes no event; any other becomes the sampled state, and where no watch is enabled and no
lane is checking nothing else changes, in whatever order the receivers take it. After the sample of a
microsecond it takes no other, and what the outside does shows in the next. (The order and the outside are the
model's operands, notes/assumptions/5.md and 6.md.) -/
def Obligations.SamplesAndComparisons : Prop :=
  (∀ (s s' : State) (c : Instr) (l : LaneId) (st : StepRecord) (v : Lines),
     s.compares c l st v s' →
     (st.check = .throughout → st.off v = 0 →
       exec c s = .next (s'.setLane l { s'.lane l with checking := true }))
       ∧ (st.check = .awaitMatch → st.off v ≠ 0 →
         exec c s = .next (s'.setLane l { s'.lane l with checking := true }))
       ∧ (st.check = .awaitMatch → st.off v = 0 →
         ∃ t : State, exec c s = .next t ∧ t.endsStep s' l))
  ∧ (∀ (s : State) (o : Outside) (order : List Receiver), s.resetting = none →
       (s.sampleAt = s.now → exec (.changeEvent o order) s = .next { s with outside := o })
         ∧ (s.sampleAt ≠ s.now → State.lineLevels { s with outside := o } = s.sampled →
             exec (.changeEvent o order) s = .next { s with outside := o, sampleAt := s.now })
         ∧ ∀ v, s.changesTo o v → (∀ w, (s.watch w).state ≠ .enabled) →
             (∀ l, (s.lane l).checking = false) →
             exec (.changeEvent o order) s = .next (s.withSample o v))

/-- A change event that meets the condition of an enabled watch, whose holdoff is stopped, is a hit:
counted, recorded, notified and delivered to its target lane in this order, then the holdoff starts and a
ONE_SHOT watch is SPENT. One that does not meet it, or falls into the holdoff, changes nothing at the watch.
(No other watch is enabled and no lane is checking; ChangeEventReachesReceiversInOrder is for any number of
both.) -/
def Obligations.WatchHitActsInOrder : Prop :=
  ∀ (s : State) (o : Outside) (v : Lines) (order : List Receiver) (w : WatchId) (d : WatchDef),
    s.changesTo o v → (∀ l, (s.lane l).checking = false) →
    (s.watch w).state = .enabled → (s.watch w).defn = some d →
    (∀ k, k ≠ w → (s.watch k).state ≠ .enabled) →
    (¬ d.isMet s.sampled v ∨ (s.watch w).holdoffEnd ≠ none →
      exec (.changeEvent o order) s = .next (s.withSample o v))
      ∧ (d.isMet s.sampled v → (s.watch w).holdoffEnd = none →
        ∃ t : State, exec (.changeEvent o order) s = .next t
          ∧ t.hasHit (s.withSample o v) w d s.sampled v)

/-- TIME_TRIGGER starts an ARMED lane, armed with TIME, whose start time the timestamp has reached, with the
reports of a start. HOLDOFF_EXPIRY stops a holdoff whose end the timestamp has reached, and nothing else. -/
def Obligations.TimeTriggerAndHoldoffExpiry : Prop :=
  ∀ s : State, s.resetting = none →
    (∀ (l : LaneId) (st : StepRecord), (s.lane l).state = .armed →
      (s.lane l).triggerArmed = true → (s.lane l).sources.getLsbD 3 = true →
      s.timestamp = (s.lane l).startTime → s.slot (s.lane l).firstSlot = some st →
        ∃ t : State, exec (.timeTrigger l) s = .next t
          ∧ t = { s with lanes := t.lanes, ring := t.ring, notices := t.notices }
          ∧ t.keepsOtherLanes s l ∧ t.reportsAs (s.startReports l (some .time))
          ∧ (t.lane l).startedBy (s.lane l) .time st s.now)
      ∧ ∀ w : WatchId, (s.watch w).holdoffEnd = some s.timestamp →
          exec (.holdoffExpiry w) s =
            .next (s.setWatch w { s.watch w with holdoffEnd := none })

/-- When the guard timer has run its period, the guard becomes EXPIRED, every lane that is not IDLE is ended
with ABORTED_GUARD, in lane order, and then a GUARD record and GUARD_EXPIRED carry their number. -/
def Obligations.GuardExpiryAbortsTheLanes : Prop :=
  ∀ (s : State) (since : Moment), s.resetting = none → s.guard = .running since →
    since + s.guardPeriod.toNat * 1000 ≤ s.now →
    let busy : LaneId → Bool := fun l => decide ((s.lane l).state ≠ .idle)
    ∃ t : State, exec .guardExpiry s = .next t
      ∧ t = { s with
          guard := .expired, refs := t.refs, lanes := t.lanes, ring := t.ring,
          notices := t.notices }
      ∧ t.reportsAs
          ((((laneIds.filter busy).foldl (fun r l => r.endReports l .abortedGuard) s).takeRecord
            (.guard (countLanes busy))).raise .guardExpired (.lanes (countLanes busy)))
      ∧ (∀ p, p < 128 → t.refCount p =
          s.refCount p - countLanes fun l => busy l && touches (s.lane l).segments p)
      ∧ ∀ l,
        (busy l = false → t.lane l = s.lane l)
          ∧ (busy l = true → (t.lane l).endedAs (s.lane l) .abortedGuard
              ∧ (t.lane l).faultCount = (s.lane l).faultCount)

/-! ### What only some commands change -/

/-- Outside a reset each of these changes only at the commands named for it: timestamp, guard period and
state, sampled state (with what the outside does), slots, claims, address and rate, group set, reply delay, the
repeat stores, watches, ring settings and notice mask; the queue of commands and the elapsed time at none. -/
def Obligations.StateChangesOnlyAtItsCommands : Prop :=
  ∀ (c : Instr) (s t : State), exec c s = .next t → s.resetting = none → t.resetting = none →
    t.pending = s.pending ∧ t.now = s.now
      ∧ (c ≠ .setTime → t.timestamp = s.timestamp)
      ∧ (c ≠ .setGuard → t.guardPeriod = s.guardPeriod)
      ∧ (c ≠ .setGuard → c ≠ .guardExpiry → (∀ b m, c ≠ .byteReceived b m) →
          (∀ b m, c ≠ .frameReceived b m) → t.guard = s.guard)
      ∧ ((∀ o r, c ≠ .changeEvent o r) →
          t.sampled = s.sampled ∧ t.outside = s.outside ∧ t.sampleAt = s.sampleAt)
      ∧ (c ≠ .storeSteps → c ≠ .eraseSteps → t.slots = s.slots)
      ∧ (c ≠ .claimLines → c ≠ .releaseLines → c ≠ .clear → t.claims = s.claims)
      ∧ t.link.address = s.link.address ∧ t.link.rate = s.link.rate
      ∧ (c ≠ .joinGroups → t.link.groups = s.link.groups)
      ∧ (c ≠ .setLink → t.link.replyDelay = s.link.replyDelay)
      ∧ ((∀ r : Request, c ≠ r.command) → t.link.groupStore = s.link.groupStore)
      ∧ ((∀ r : Request, c ≠ r.command) → c ≠ .badKind → t.link.unicastStore = s.link.unicastStore)
      ∧ (c ≠ .setWatch → c ≠ .enableWatches → c ≠ .setTime → c ≠ .clear →
          (∀ o r, c ≠ .changeEvent o r) → (∀ w, c ≠ .holdoffExpiry w) → t.watches = s.watches)
      ∧ (c ≠ .setRing → t.ring.policy = s.ring.policy ∧ t.ring.threshold = s.ring.threshold)
      ∧ (c ≠ .setNoticeMask → t.notices.mask = s.notices.mask)

/-- No slot of a page whose reference count is above 0 changes at any command, except at the beginning of a
full reset. -/
def Obligations.LockedPagesDoNotChange : Prop :=
  ∀ (c : Instr) (s t : State), exec c s = .next t → s.resetting = none → t.resetting = none →
    ∀ n, 0 < s.refCount (n / 16) → t.slot n = s.slot n

/-- From its ARM to its return to IDLE a lane keeps its segment list, its options and its claim: at a
command that finds and leaves it not IDLE none of the three changes. -/
def Obligations.LaneInFlightKeepsItsProgramAndClaim : Prop :=
  ∀ (c : Instr) (s t : State) (l : LaneId), exec c s = .next t → s.resetting = none →
    t.resetting = none → (s.lane l).state ≠ .idle → (t.lane l).state ≠ .idle →
      (t.lane l).segments = (s.lane l).segments ∧ (t.lane l).options = (s.lane l).options
        ∧ ∀ n, n < 40 → ((s.claim n).owner = some l ∨ (t.claim n).owner = some l) →
            t.claim n = s.claim n

/-! ### Layouts of stored records -/

/-- Every valid step record comes back from its 18 bytes with every bit of every field, and the only 18
bytes read as a step are those of a valid record: nothing is dropped and nothing invalid is taken. An EMPTY
slot is 18 zero bytes. Every segment entry whose fields are in range comes back from its 7 bytes, and the
only 7 bytes read as an entry are those of such an entry. -/
def Obligations.RecordsAndEntriesRoundTrip : Prop :=
  (stepBytes none = List.replicate 18 0x00
     ∧ (∀ st : StepRecord, st.valid = true →
       (stepBytes (some st)).length = 18 ∧ parseStep (stepBytes (some st)) = some st)
     ∧ ∀ (bytes : List Byte) (st : StepRecord), bytes.length = 18 → parseStep bytes = some st →
         st.valid = true ∧ bytes = stepBytes (some st))
  ∧ ((∀ e : SegmentEntry, e.fieldsOk = true →
         (entryBytes e).length = 7 ∧ parseEntry (entryBytes e) = some e)
       ∧ ∀ (bytes : List Byte) (e : SegmentEntry), bytes.length = 7 → parseEntry bytes = some e →
           e.fieldsOk = true ∧ bytes = entryBytes e)

/-! ### Invariants -/

/-- Every step keeps the flags, timers, trigger and points of every lane in agreement with its state, and
the reference count of every page equal to the number of lanes that are not IDLE and touch it. -/
def Obligations.StepKeepsLanesAndReferences : Prop :=
  ∀ s t : State, s.lanesOk → s.refsOk → step s = .next t → t.lanesOk ∧ t.refsOk

/-- Every step keeps this: the store holds valid records in canonical form; a lane that is not IDLE has a
valid list whose every slot is filled; its position names a step or a completion of that list; and a RUNNING
lane runs the very record its position's slot holds. -/
def Obligations.StepKeepsRunsOnFilledSlots : Prop :=
  ∀ s t : State, s.lanesOk → s.refsOk → s.storeOk → s.listsOk → s.positionsOk →
    step s = .next t → t.storeOk ∧ t.listsOk ∧ t.positionsOk

/-- No step lets a step timer, an opening comparison or a sample go by: elapsed time never passes the moment of
a timer that runs, an opening comparison not yet made is at most 1 microsecond after its settle window, and
outside a reset the last sample is this microsecond's or the one before's (by the model's clock,
notes/assumptions/1.md, 2.md, 6.md and 7.md). -/
def Obligations.StepNeverPassesATimer : Prop :=
  ∀ s t : State, s.lanesOk → s.resetOk → s.timingOk → step s = .next t →
    t.resetOk ∧ t.timingOk

/-- Every step keeps the notice set at one entry for a kind and source, every entry of a recorded kind, so
at most 40; the ring at 512 records and its threshold in range; and ATTN asserted exactly while the set is
not empty outside a reset. It keeps the serials of the ring increasing in stored order and the notice list in
serial order, as long as every stored serial lies within the window of 2^31 in which serials are compared. -/
def Obligations.StepKeepsRingAndNotices : Prop :=
  ∀ s t : State, s.ring.ok → s.notices.ok → step s = .next t →
    t.ring.ok ∧ t.notices.ok ∧ t.notices.entries.length ≤ 40
      ∧ (t.attn = true ↔ t.resetting = none ∧ t.notices.entries ≠ [])
      ∧ (s.ring.inOrder → s.notices.inOrder → s.serialsInWindow →
          t.ring.inOrder ∧ t.notices.inOrder)

/-- Every step keeps the link in order: a frame in assembly begins with its SYNC and is not whole, at most 4
frames are queued, no count passes 65535, and a listen-only station holds no reply and no unicast frame. -/
def Obligations.StepKeepsTheLink : Prop :=
  ∀ s t : State, s.link.ok → step s = .next t → t.link.ok

/-- The invariants hold at reset. -/
def Obligations.InvariantsHoldAtReset : Prop :=
  State.reset.lanesOk ∧ State.reset.refsOk ∧ State.reset.storeOk ∧ State.reset.listsOk
    ∧ State.reset.positionsOk ∧ State.reset.resetOk ∧ State.reset.timingOk
    ∧ State.reset.ring.ok ∧ State.reset.notices.ok ∧ State.reset.link.ok
    ∧ State.reset.ring.inOrder ∧ State.reset.notices.inOrder ∧ State.reset.serialsInWindow

/-! ### A change event and all its receivers -/

/-- A change event reaches the watch unit and the four lanes one after another, each once: in the operand's
order when it names each once, in some order otherwise. The watch unit takes it watch by watch, W0 first; a
lane that is not checking takes nothing; whatever number of watches is enabled and of lanes is checking. (The
order is the model's operand, notes/assumptions/5.md.) -/
def Obligations.ChangeEventReachesReceiversInOrder : Prop :=
  ∀ (s : State) (o : Outside) (v : Lines) (order : List Receiver), s.changesTo o v →
    let all : List Receiver := [.watchUnit, .lane 0, .lane 1, .lane 2, .lane 3]
    ∃ (p : List Receiver) (u : Nat → State), p.Perm all ∧ (order.Perm all → p = order)
      ∧ u 0 = s.withSample o v
      ∧ (∀ i r, p[i]? = some r → (u (i + 1)).receives (u i) r s.sampled v)
      ∧ exec (.changeEvent o order) s = .next (u 5)

end
end

