-- ==== Sys2Proof/Laws/State.lean ====
section
/-!
SUPPORT. One lemma per field per update of State, true by rfl, so that no later proof unfolds a record
update; and what a lane, a watch, a slot or a claim reads after an update.
-/

namespace Sys2Proof.Machine

section
variable (s : State) (l : LaneId) (x : Lane)

@[simp] theorem State.setLane_pending : (s.setLane l x).pending = s.pending := rfl
@[simp] theorem State.setLane_now : (s.setLane l x).now = s.now := rfl
@[simp] theorem State.setLane_freeIx : (s.setLane l x).freeIx = s.freeIx := rfl
@[simp] theorem State.setLane_resetting : (s.setLane l x).resetting = s.resetting := rfl
@[simp] theorem State.setLane_timestamp : (s.setLane l x).timestamp = s.timestamp := rfl
@[simp] theorem State.setLane_guardPeriod : (s.setLane l x).guardPeriod = s.guardPeriod := rfl
@[simp] theorem State.setLane_guard : (s.setLane l x).guard = s.guard := rfl
@[simp] theorem State.setLane_link : (s.setLane l x).link = s.link := rfl
@[simp] theorem State.setLane_slots : (s.setLane l x).slots = s.slots := rfl
@[simp] theorem State.setLane_refs : (s.setLane l x).refs = s.refs := rfl
@[simp] theorem State.setLane_claims : (s.setLane l x).claims = s.claims := rfl
@[simp] theorem State.setLane_sampled : (s.setLane l x).sampled = s.sampled := rfl
@[simp] theorem State.setLane_outside : (s.setLane l x).outside = s.outside := rfl
@[simp] theorem State.setLane_sampleAt : (s.setLane l x).sampleAt = s.sampleAt := rfl
@[simp] theorem State.setLane_watches : (s.setLane l x).watches = s.watches := rfl
@[simp] theorem State.setLane_ring : (s.setLane l x).ring = s.ring := rfl
@[simp] theorem State.setLane_notices : (s.setLane l x).notices = s.notices := rfl
@[simp] theorem State.setLane_watch (i : WatchId) : (s.setLane l x).watch i = s.watch i := rfl
@[simp] theorem State.setLane_slot (i : Nat) : (s.setLane l x).slot i = s.slot i := rfl
@[simp] theorem State.setLane_claim (i : Nat) : (s.setLane l x).claim i = s.claim i := rfl
@[simp] theorem State.setLane_refCount (i : Nat) : (s.setLane l x).refCount i = s.refCount i := rfl

end

section
variable (s : State) (w : WatchId) (x : Watch)

@[simp] theorem State.setWatch_pending : (s.setWatch w x).pending = s.pending := rfl
@[simp] theorem State.setWatch_now : (s.setWatch w x).now = s.now := rfl
@[simp] theorem State.setWatch_freeIx : (s.setWatch w x).freeIx = s.freeIx := rfl
@[simp] theorem State.setWatch_resetting : (s.setWatch w x).resetting = s.resetting := rfl
@[simp] theorem State.setWatch_timestamp : (s.setWatch w x).timestamp = s.timestamp := rfl
@[simp] theorem State.setWatch_guardPeriod : (s.setWatch w x).guardPeriod = s.guardPeriod := rfl
@[simp] theorem State.setWatch_guard : (s.setWatch w x).guard = s.guard := rfl
@[simp] theorem State.setWatch_link : (s.setWatch w x).link = s.link := rfl
@[simp] theorem State.setWatch_slots : (s.setWatch w x).slots = s.slots := rfl
@[simp] theorem State.setWatch_refs : (s.setWatch w x).refs = s.refs := rfl
@[simp] theorem State.setWatch_claims : (s.setWatch w x).claims = s.claims := rfl
@[simp] theorem State.setWatch_sampled : (s.setWatch w x).sampled = s.sampled := rfl
@[simp] theorem State.setWatch_outside : (s.setWatch w x).outside = s.outside := rfl
@[simp] theorem State.setWatch_sampleAt : (s.setWatch w x).sampleAt = s.sampleAt := rfl
@[simp] theorem State.setWatch_lanes : (s.setWatch w x).lanes = s.lanes := rfl
@[simp] theorem State.setWatch_ring : (s.setWatch w x).ring = s.ring := rfl
@[simp] theorem State.setWatch_notices : (s.setWatch w x).notices = s.notices := rfl
@[simp] theorem State.setWatch_lane (i : LaneId) : (s.setWatch w x).lane i = s.lane i := rfl
@[simp] theorem State.setWatch_slot (i : Nat) : (s.setWatch w x).slot i = s.slot i := rfl
@[simp] theorem State.setWatch_claim (i : Nat) : (s.setWatch w x).claim i = s.claim i := rfl
@[simp] theorem State.setWatch_refCount (i : Nat) : (s.setWatch w x).refCount i = s.refCount i := rfl

end

section
variable (s : State) (x : Link)

@[simp] theorem State.setLink_pending : (s.setLink x).pending = s.pending := rfl
@[simp] theorem State.setLink_now : (s.setLink x).now = s.now := rfl
@[simp] theorem State.setLink_freeIx : (s.setLink x).freeIx = s.freeIx := rfl
@[simp] theorem State.setLink_resetting : (s.setLink x).resetting = s.resetting := rfl
@[simp] theorem State.setLink_timestamp : (s.setLink x).timestamp = s.timestamp := rfl
@[simp] theorem State.setLink_guardPeriod : (s.setLink x).guardPeriod = s.guardPeriod := rfl
@[simp] theorem State.setLink_guard : (s.setLink x).guard = s.guard := rfl
@[simp] theorem State.setLink_slots : (s.setLink x).slots = s.slots := rfl
@[simp] theorem State.setLink_refs : (s.setLink x).refs = s.refs := rfl
@[simp] theorem State.setLink_claims : (s.setLink x).claims = s.claims := rfl
@[simp] theorem State.setLink_sampled : (s.setLink x).sampled = s.sampled := rfl
@[simp] theorem State.setLink_outside : (s.setLink x).outside = s.outside := rfl
@[simp] theorem State.setLink_sampleAt : (s.setLink x).sampleAt = s.sampleAt := rfl
@[simp] theorem State.setLink_lanes : (s.setLink x).lanes = s.lanes := rfl
@[simp] theorem State.setLink_watches : (s.setLink x).watches = s.watches := rfl
@[simp] theorem State.setLink_ring : (s.setLink x).ring = s.ring := rfl
@[simp] theorem State.setLink_notices : (s.setLink x).notices = s.notices := rfl
@[simp] theorem State.setLink_link : (s.setLink x).link = x := rfl
@[simp] theorem State.setLink_lane (i : LaneId) : (s.setLink x).lane i = s.lane i := rfl
@[simp] theorem State.setLink_watch (i : WatchId) : (s.setLink x).watch i = s.watch i := rfl
@[simp] theorem State.setLink_slot (i : Nat) : (s.setLink x).slot i = s.slot i := rfl
@[simp] theorem State.setLink_claim (i : Nat) : (s.setLink x).claim i = s.claim i := rfl
@[simp] theorem State.setLink_refCount (i : Nat) : (s.setLink x).refCount i = s.refCount i := rfl

end

section
variable (s : State) (x : Ring)

@[simp] theorem State.setRing_pending : (s.setRing x).pending = s.pending := rfl
@[simp] theorem State.setRing_now : (s.setRing x).now = s.now := rfl
@[simp] theorem State.setRing_freeIx : (s.setRing x).freeIx = s.freeIx := rfl
@[simp] theorem State.setRing_resetting : (s.setRing x).resetting = s.resetting := rfl
@[simp] theorem State.setRing_timestamp : (s.setRing x).timestamp = s.timestamp := rfl
@[simp] theorem State.setRing_guardPeriod : (s.setRing x).guardPeriod = s.guardPeriod := rfl
@[simp] theorem State.setRing_guard : (s.setRing x).guard = s.guard := rfl
@[simp] theorem State.setRing_link : (s.setRing x).link = s.link := rfl
@[simp] theorem State.setRing_slots : (s.setRing x).slots = s.slots := rfl
@[simp] theorem State.setRing_refs : (s.setRing x).refs = s.refs := rfl
@[simp] theorem State.setRing_claims : (s.setRing x).claims = s.claims := rfl
@[simp] theorem State.setRing_sampled : (s.setRing x).sampled = s.sampled := rfl
@[simp] theorem State.setRing_outside : (s.setRing x).outside = s.outside := rfl
@[simp] theorem State.setRing_sampleAt : (s.setRing x).sampleAt = s.sampleAt := rfl
@[simp] theorem State.setRing_lanes : (s.setRing x).lanes = s.lanes := rfl
@[simp] theorem State.setRing_watches : (s.setRing x).watches = s.watches := rfl
@[simp] theorem State.setRing_notices : (s.setRing x).notices = s.notices := rfl
@[simp] theorem State.setRing_ring : (s.setRing x).ring = x := rfl
@[simp] theorem State.setRing_lane (i : LaneId) : (s.setRing x).lane i = s.lane i := rfl
@[simp] theorem State.setRing_watch (i : WatchId) : (s.setRing x).watch i = s.watch i := rfl
@[simp] theorem State.setRing_slot (i : Nat) : (s.setRing x).slot i = s.slot i := rfl
@[simp] theorem State.setRing_claim (i : Nat) : (s.setRing x).claim i = s.claim i := rfl
@[simp] theorem State.setRing_refCount (i : Nat) : (s.setRing x).refCount i = s.refCount i := rfl

end

section
variable (s : State) (x : NoticeSet)

@[simp] theorem State.setNotices_pending : (s.setNotices x).pending = s.pending := rfl
@[simp] theorem State.setNotices_now : (s.setNotices x).now = s.now := rfl
@[simp] theorem State.setNotices_freeIx : (s.setNotices x).freeIx = s.freeIx := rfl
@[simp] theorem State.setNotices_resetting : (s.setNotices x).resetting = s.resetting := rfl
@[simp] theorem State.setNotices_timestamp : (s.setNotices x).timestamp = s.timestamp := rfl
@[simp] theorem State.setNotices_guardPeriod : (s.setNotices x).guardPeriod = s.guardPeriod := rfl
@[simp] theorem State.setNotices_guard : (s.setNotices x).guard = s.guard := rfl
@[simp] theorem State.setNotices_link : (s.setNotices x).link = s.link := rfl
@[simp] theorem State.setNotices_slots : (s.setNotices x).slots = s.slots := rfl
@[simp] theorem State.setNotices_refs : (s.setNotices x).refs = s.refs := rfl
@[simp] theorem State.setNotices_claims : (s.setNotices x).claims = s.claims := rfl
@[simp] theorem State.setNotices_sampled : (s.setNotices x).sampled = s.sampled := rfl
@[simp] theorem State.setNotices_outside : (s.setNotices x).outside = s.outside := rfl
@[simp] theorem State.setNotices_sampleAt : (s.setNotices x).sampleAt = s.sampleAt := rfl
@[simp] theorem State.setNotices_lanes : (s.setNotices x).lanes = s.lanes := rfl
@[simp] theorem State.setNotices_watches : (s.setNotices x).watches = s.watches := rfl
@[simp] theorem State.setNotices_ring : (s.setNotices x).ring = s.ring := rfl
@[simp] theorem State.setNotices_notices : (s.setNotices x).notices = x := rfl
@[simp] theorem State.setNotices_lane (i : LaneId) : (s.setNotices x).lane i = s.lane i := rfl
@[simp] theorem State.setNotices_watch (i : WatchId) : (s.setNotices x).watch i = s.watch i := rfl
@[simp] theorem State.setNotices_slot (i : Nat) : (s.setNotices x).slot i = s.slot i := rfl
@[simp] theorem State.setNotices_claim (i : Nat) : (s.setNotices x).claim i = s.claim i := rfl
@[simp] theorem State.setNotices_refCount (i : Nat) : (s.setNotices x).refCount i = s.refCount i := rfl

end

section
variable (s : State) (x : Sparse StepRecord)

@[simp] theorem State.setSlots_pending : (s.setSlots x).pending = s.pending := rfl
@[simp] theorem State.setSlots_now : (s.setSlots x).now = s.now := rfl
@[simp] theorem State.setSlots_freeIx : (s.setSlots x).freeIx = s.freeIx := rfl
@[simp] theorem State.setSlots_resetting : (s.setSlots x).resetting = s.resetting := rfl
@[simp] theorem State.setSlots_timestamp : (s.setSlots x).timestamp = s.timestamp := rfl
@[simp] theorem State.setSlots_guardPeriod : (s.setSlots x).guardPeriod = s.guardPeriod := rfl
@[simp] theorem State.setSlots_guard : (s.setSlots x).guard = s.guard := rfl
@[simp] theorem State.setSlots_link : (s.setSlots x).link = s.link := rfl
@[simp] theorem State.setSlots_refs : (s.setSlots x).refs = s.refs := rfl
@[simp] theorem State.setSlots_claims : (s.setSlots x).claims = s.claims := rfl
@[simp] theorem State.setSlots_sampled : (s.setSlots x).sampled = s.sampled := rfl
@[simp] theorem State.setSlots_outside : (s.setSlots x).outside = s.outside := rfl
@[simp] theorem State.setSlots_sampleAt : (s.setSlots x).sampleAt = s.sampleAt := rfl
@[simp] theorem State.setSlots_lanes : (s.setSlots x).lanes = s.lanes := rfl
@[simp] theorem State.setSlots_watches : (s.setSlots x).watches = s.watches := rfl
@[simp] theorem State.setSlots_ring : (s.setSlots x).ring = s.ring := rfl
@[simp] theorem State.setSlots_notices : (s.setSlots x).notices = s.notices := rfl
@[simp] theorem State.setSlots_slots : (s.setSlots x).slots = x := rfl
@[simp] theorem State.setSlots_lane (i : LaneId) : (s.setSlots x).lane i = s.lane i := rfl
@[simp] theorem State.setSlots_watch (i : WatchId) : (s.setSlots x).watch i = s.watch i := rfl
@[simp] theorem State.setSlots_claim (i : Nat) : (s.setSlots x).claim i = s.claim i := rfl
@[simp] theorem State.setSlots_refCount (i : Nat) : (s.setSlots x).refCount i = s.refCount i := rfl

end

section
variable (s : State) (x : Vector Nat 128)

@[simp] theorem State.setRefs_pending : (s.setRefs x).pending = s.pending := rfl
@[simp] theorem State.setRefs_now : (s.setRefs x).now = s.now := rfl
@[simp] theorem State.setRefs_freeIx : (s.setRefs x).freeIx = s.freeIx := rfl
@[simp] theorem State.setRefs_resetting : (s.setRefs x).resetting = s.resetting := rfl
@[simp] theorem State.setRefs_timestamp : (s.setRefs x).timestamp = s.timestamp := rfl
@[simp] theorem State.setRefs_guardPeriod : (s.setRefs x).guardPeriod = s.guardPeriod := rfl
@[simp] theorem State.setRefs_guard : (s.setRefs x).guard = s.guard := rfl
@[simp] theorem State.setRefs_link : (s.setRefs x).link = s.link := rfl
@[simp] theorem State.setRefs_slots : (s.setRefs x).slots = s.slots := rfl
@[simp] theorem State.setRefs_claims : (s.setRefs x).claims = s.claims := rfl
@[simp] theorem State.setRefs_sampled : (s.setRefs x).sampled = s.sampled := rfl
@[simp] theorem State.setRefs_outside : (s.setRefs x).outside = s.outside := rfl
@[simp] theorem State.setRefs_sampleAt : (s.setRefs x).sampleAt = s.sampleAt := rfl
@[simp] theorem State.setRefs_lanes : (s.setRefs x).lanes = s.lanes := rfl
@[simp] theorem State.setRefs_watches : (s.setRefs x).watches = s.watches := rfl
@[simp] theorem State.setRefs_ring : (s.setRefs x).ring = s.ring := rfl
@[simp] theorem State.setRefs_notices : (s.setRefs x).notices = s.notices := rfl
@[simp] theorem State.setRefs_refs : (s.setRefs x).refs = x := rfl
@[simp] theorem State.setRefs_lane (i : LaneId) : (s.setRefs x).lane i = s.lane i := rfl
@[simp] theorem State.setRefs_watch (i : WatchId) : (s.setRefs x).watch i = s.watch i := rfl
@[simp] theorem State.setRefs_slot (i : Nat) : (s.setRefs x).slot i = s.slot i := rfl
@[simp] theorem State.setRefs_claim (i : Nat) : (s.setRefs x).claim i = s.claim i := rfl

end

section
variable (s : State) (x : Vector LineClaim 40)

@[simp] theorem State.setClaims_pending : (s.setClaims x).pending = s.pending := rfl
@[simp] theorem State.setClaims_now : (s.setClaims x).now = s.now := rfl
@[simp] theorem State.setClaims_freeIx : (s.setClaims x).freeIx = s.freeIx := rfl
@[simp] theorem State.setClaims_resetting : (s.setClaims x).resetting = s.resetting := rfl
@[simp] theorem State.setClaims_timestamp : (s.setClaims x).timestamp = s.timestamp := rfl
@[simp] theorem State.setClaims_guardPeriod : (s.setClaims x).guardPeriod = s.guardPeriod := rfl
@[simp] theorem State.setClaims_guard : (s.setClaims x).guard = s.guard := rfl
@[simp] theorem State.setClaims_link : (s.setClaims x).link = s.link := rfl
@[simp] theorem State.setClaims_slots : (s.setClaims x).slots = s.slots := rfl
@[simp] theorem State.setClaims_refs : (s.setClaims x).refs = s.refs := rfl
@[simp] theorem State.setClaims_sampled : (s.setClaims x).sampled = s.sampled := rfl
@[simp] theorem State.setClaims_outside : (s.setClaims x).outside = s.outside := rfl
@[simp] theorem State.setClaims_sampleAt : (s.setClaims x).sampleAt = s.sampleAt := rfl
@[simp] theorem State.setClaims_lanes : (s.setClaims x).lanes = s.lanes := rfl
@[simp] theorem State.setClaims_watches : (s.setClaims x).watches = s.watches := rfl
@[simp] theorem State.setClaims_ring : (s.setClaims x).ring = s.ring := rfl
@[simp] theorem State.setClaims_notices : (s.setClaims x).notices = s.notices := rfl
@[simp] theorem State.setClaims_claims : (s.setClaims x).claims = x := rfl
@[simp] theorem State.setClaims_lane (i : LaneId) : (s.setClaims x).lane i = s.lane i := rfl
@[simp] theorem State.setClaims_watch (i : WatchId) : (s.setClaims x).watch i = s.watch i := rfl
@[simp] theorem State.setClaims_slot (i : Nat) : (s.setClaims x).slot i = s.slot i := rfl
@[simp] theorem State.setClaims_refCount (i : Nat) : (s.setClaims x).refCount i = s.refCount i := rfl

end

section
variable (s : State) (x : GuardState)

@[simp] theorem State.setGuard_pending : (s.setGuard x).pending = s.pending := rfl
@[simp] theorem State.setGuard_now : (s.setGuard x).now = s.now := rfl
@[simp] theorem State.setGuard_freeIx : (s.setGuard x).freeIx = s.freeIx := rfl
@[simp] theorem State.setGuard_resetting : (s.setGuard x).resetting = s.resetting := rfl
@[simp] theorem State.setGuard_timestamp : (s.setGuard x).timestamp = s.timestamp := rfl
@[simp] theorem State.setGuard_guardPeriod : (s.setGuard x).guardPeriod = s.guardPeriod := rfl
@[simp] theorem State.setGuard_link : (s.setGuard x).link = s.link := rfl
@[simp] theorem State.setGuard_slots : (s.setGuard x).slots = s.slots := rfl
@[simp] theorem State.setGuard_refs : (s.setGuard x).refs = s.refs := rfl
@[simp] theorem State.setGuard_claims : (s.setGuard x).claims = s.claims := rfl
@[simp] theorem State.setGuard_sampled : (s.setGuard x).sampled = s.sampled := rfl
@[simp] theorem State.setGuard_outside : (s.setGuard x).outside = s.outside := rfl
@[simp] theorem State.setGuard_sampleAt : (s.setGuard x).sampleAt = s.sampleAt := rfl
@[simp] theorem State.setGuard_lanes : (s.setGuard x).lanes = s.lanes := rfl
@[simp] theorem State.setGuard_watches : (s.setGuard x).watches = s.watches := rfl
@[simp] theorem State.setGuard_ring : (s.setGuard x).ring = s.ring := rfl
@[simp] theorem State.setGuard_notices : (s.setGuard x).notices = s.notices := rfl
@[simp] theorem State.setGuard_guard : (s.setGuard x).guard = x := rfl
@[simp] theorem State.setGuard_lane (i : LaneId) : (s.setGuard x).lane i = s.lane i := rfl
@[simp] theorem State.setGuard_watch (i : WatchId) : (s.setGuard x).watch i = s.watch i := rfl
@[simp] theorem State.setGuard_slot (i : Nat) : (s.setGuard x).slot i = s.slot i := rfl
@[simp] theorem State.setGuard_claim (i : Nat) : (s.setGuard x).claim i = s.claim i := rfl
@[simp] theorem State.setGuard_refCount (i : Nat) : (s.setGuard x).refCount i = s.refCount i := rfl

end

section
variable (s : State) (k : NoticeKey) (d : NoticeDetail)

@[simp] theorem State.raise_pending : (s.raise k d).pending = s.pending := rfl
@[simp] theorem State.raise_now : (s.raise k d).now = s.now := rfl
@[simp] theorem State.raise_freeIx : (s.raise k d).freeIx = s.freeIx := rfl
@[simp] theorem State.raise_resetting : (s.raise k d).resetting = s.resetting := rfl
@[simp] theorem State.raise_timestamp : (s.raise k d).timestamp = s.timestamp := rfl
@[simp] theorem State.raise_guardPeriod : (s.raise k d).guardPeriod = s.guardPeriod := rfl
@[simp] theorem State.raise_guard : (s.raise k d).guard = s.guard := rfl
@[simp] theorem State.raise_link : (s.raise k d).link = s.link := rfl
@[simp] theorem State.raise_slots : (s.raise k d).slots = s.slots := rfl
@[simp] theorem State.raise_refs : (s.raise k d).refs = s.refs := rfl
@[simp] theorem State.raise_claims : (s.raise k d).claims = s.claims := rfl
@[simp] theorem State.raise_sampled : (s.raise k d).sampled = s.sampled := rfl
@[simp] theorem State.raise_outside : (s.raise k d).outside = s.outside := rfl
@[simp] theorem State.raise_sampleAt : (s.raise k d).sampleAt = s.sampleAt := rfl
@[simp] theorem State.raise_lanes : (s.raise k d).lanes = s.lanes := rfl
@[simp] theorem State.raise_watches : (s.raise k d).watches = s.watches := rfl
@[simp] theorem State.raise_ring : (s.raise k d).ring = s.ring := rfl
@[simp] theorem State.raise_lane (i : LaneId) : (s.raise k d).lane i = s.lane i := rfl
@[simp] theorem State.raise_watch (i : WatchId) : (s.raise k d).watch i = s.watch i := rfl
@[simp] theorem State.raise_slot (i : Nat) : (s.raise k d).slot i = s.slot i := rfl
@[simp] theorem State.raise_claim (i : Nat) : (s.raise k d).claim i = s.claim i := rfl
@[simp] theorem State.raise_refCount (i : Nat) : (s.raise k d).refCount i = s.refCount i := rfl

end

section
variable (s : State) (k : LaneNotice) (l : LaneId) (d : NoticeDetail)

@[simp] theorem State.raiseLane_pending : (s.raiseLane k l d).pending = s.pending := rfl
@[simp] theorem State.raiseLane_now : (s.raiseLane k l d).now = s.now := rfl
@[simp] theorem State.raiseLane_freeIx : (s.raiseLane k l d).freeIx = s.freeIx := rfl
@[simp] theorem State.raiseLane_resetting : (s.raiseLane k l d).resetting = s.resetting := rfl
@[simp] theorem State.raiseLane_timestamp : (s.raiseLane k l d).timestamp = s.timestamp := rfl
@[simp] theorem State.raiseLane_guardPeriod : (s.raiseLane k l d).guardPeriod = s.guardPeriod := rfl
@[simp] theorem State.raiseLane_guard : (s.raiseLane k l d).guard = s.guard := rfl
@[simp] theorem State.raiseLane_link : (s.raiseLane k l d).link = s.link := rfl
@[simp] theorem State.raiseLane_slots : (s.raiseLane k l d).slots = s.slots := rfl
@[simp] theorem State.raiseLane_refs : (s.raiseLane k l d).refs = s.refs := rfl
@[simp] theorem State.raiseLane_claims : (s.raiseLane k l d).claims = s.claims := rfl
@[simp] theorem State.raiseLane_sampled : (s.raiseLane k l d).sampled = s.sampled := rfl
@[simp] theorem State.raiseLane_outside : (s.raiseLane k l d).outside = s.outside := rfl
@[simp] theorem State.raiseLane_sampleAt : (s.raiseLane k l d).sampleAt = s.sampleAt := rfl
@[simp] theorem State.raiseLane_lanes : (s.raiseLane k l d).lanes = s.lanes := rfl
@[simp] theorem State.raiseLane_watches : (s.raiseLane k l d).watches = s.watches := rfl
@[simp] theorem State.raiseLane_ring : (s.raiseLane k l d).ring = s.ring := rfl
@[simp] theorem State.raiseLane_lane (i : LaneId) : (s.raiseLane k l d).lane i = s.lane i := rfl
@[simp] theorem State.raiseLane_watch (i : WatchId) : (s.raiseLane k l d).watch i = s.watch i := rfl
@[simp] theorem State.raiseLane_slot (i : Nat) : (s.raiseLane k l d).slot i = s.slot i := rfl
@[simp] theorem State.raiseLane_claim (i : Nat) : (s.raiseLane k l d).claim i = s.claim i := rfl
@[simp] theorem State.raiseLane_refCount (i : Nat) : (s.raiseLane k l d).refCount i = s.refCount i := rfl

end

section
variable (s : State) (g : List SegmentEntry)

@[simp] theorem State.raiseRefs_pending : (s.raiseRefs g).pending = s.pending := rfl
@[simp] theorem State.raiseRefs_now : (s.raiseRefs g).now = s.now := rfl
@[simp] theorem State.raiseRefs_freeIx : (s.raiseRefs g).freeIx = s.freeIx := rfl
@[simp] theorem State.raiseRefs_resetting : (s.raiseRefs g).resetting = s.resetting := rfl
@[simp] theorem State.raiseRefs_timestamp : (s.raiseRefs g).timestamp = s.timestamp := rfl
@[simp] theorem State.raiseRefs_guardPeriod : (s.raiseRefs g).guardPeriod = s.guardPeriod := rfl
@[simp] theorem State.raiseRefs_guard : (s.raiseRefs g).guard = s.guard := rfl
@[simp] theorem State.raiseRefs_link : (s.raiseRefs g).link = s.link := rfl
@[simp] theorem State.raiseRefs_slots : (s.raiseRefs g).slots = s.slots := rfl
@[simp] theorem State.raiseRefs_claims : (s.raiseRefs g).claims = s.claims := rfl
@[simp] theorem State.raiseRefs_sampled : (s.raiseRefs g).sampled = s.sampled := rfl
@[simp] theorem State.raiseRefs_outside : (s.raiseRefs g).outside = s.outside := rfl
@[simp] theorem State.raiseRefs_sampleAt : (s.raiseRefs g).sampleAt = s.sampleAt := rfl
@[simp] theorem State.raiseRefs_lanes : (s.raiseRefs g).lanes = s.lanes := rfl
@[simp] theorem State.raiseRefs_watches : (s.raiseRefs g).watches = s.watches := rfl
@[simp] theorem State.raiseRefs_ring : (s.raiseRefs g).ring = s.ring := rfl
@[simp] theorem State.raiseRefs_notices : (s.raiseRefs g).notices = s.notices := rfl
@[simp] theorem State.raiseRefs_lane (i : LaneId) : (s.raiseRefs g).lane i = s.lane i := rfl
@[simp] theorem State.raiseRefs_watch (i : WatchId) : (s.raiseRefs g).watch i = s.watch i := rfl
@[simp] theorem State.raiseRefs_slot (i : Nat) : (s.raiseRefs g).slot i = s.slot i := rfl
@[simp] theorem State.raiseRefs_claim (i : Nat) : (s.raiseRefs g).claim i = s.claim i := rfl

end

section
variable (s : State) (g : List SegmentEntry)

@[simp] theorem State.lowerRefs_pending : (s.lowerRefs g).pending = s.pending := rfl
@[simp] theorem State.lowerRefs_now : (s.lowerRefs g).now = s.now := rfl
@[simp] theorem State.lowerRefs_freeIx : (s.lowerRefs g).freeIx = s.freeIx := rfl
@[simp] theorem State.lowerRefs_resetting : (s.lowerRefs g).resetting = s.resetting := rfl
@[simp] theorem State.lowerRefs_timestamp : (s.lowerRefs g).timestamp = s.timestamp := rfl
@[simp] theorem State.lowerRefs_guardPeriod : (s.lowerRefs g).guardPeriod = s.guardPeriod := rfl
@[simp] theorem State.lowerRefs_guard : (s.lowerRefs g).guard = s.guard := rfl
@[simp] theorem State.lowerRefs_link : (s.lowerRefs g).link = s.link := rfl
@[simp] theorem State.lowerRefs_slots : (s.lowerRefs g).slots = s.slots := rfl
@[simp] theorem State.lowerRefs_claims : (s.lowerRefs g).claims = s.claims := rfl
@[simp] theorem State.lowerRefs_sampled : (s.lowerRefs g).sampled = s.sampled := rfl
@[simp] theorem State.lowerRefs_outside : (s.lowerRefs g).outside = s.outside := rfl
@[simp] theorem State.lowerRefs_sampleAt : (s.lowerRefs g).sampleAt = s.sampleAt := rfl
@[simp] theorem State.lowerRefs_lanes : (s.lowerRefs g).lanes = s.lanes := rfl
@[simp] theorem State.lowerRefs_watches : (s.lowerRefs g).watches = s.watches := rfl
@[simp] theorem State.lowerRefs_ring : (s.lowerRefs g).ring = s.ring := rfl
@[simp] theorem State.lowerRefs_notices : (s.lowerRefs g).notices = s.notices := rfl
@[simp] theorem State.lowerRefs_lane (i : LaneId) : (s.lowerRefs g).lane i = s.lane i := rfl
@[simp] theorem State.lowerRefs_watch (i : WatchId) : (s.lowerRefs g).watch i = s.watch i := rfl
@[simp] theorem State.lowerRefs_slot (i : Nat) : (s.lowerRefs g).slot i = s.slot i := rfl
@[simp] theorem State.lowerRefs_claim (i : Nat) : (s.lowerRefs g).claim i = s.claim i := rfl

end

section
variable (s : State) (g : List Frame)

@[simp] theorem State.popInbound_pending : (s.popInbound g).pending = s.pending := rfl
@[simp] theorem State.popInbound_now : (s.popInbound g).now = s.now := rfl
@[simp] theorem State.popInbound_freeIx : (s.popInbound g).freeIx = s.freeIx := rfl
@[simp] theorem State.popInbound_resetting : (s.popInbound g).resetting = s.resetting := rfl
@[simp] theorem State.popInbound_timestamp : (s.popInbound g).timestamp = s.timestamp := rfl
@[simp] theorem State.popInbound_guardPeriod : (s.popInbound g).guardPeriod = s.guardPeriod := rfl
@[simp] theorem State.popInbound_guard : (s.popInbound g).guard = s.guard := rfl
@[simp] theorem State.popInbound_slots : (s.popInbound g).slots = s.slots := rfl
@[simp] theorem State.popInbound_refs : (s.popInbound g).refs = s.refs := rfl
@[simp] theorem State.popInbound_claims : (s.popInbound g).claims = s.claims := rfl
@[simp] theorem State.popInbound_sampled : (s.popInbound g).sampled = s.sampled := rfl
@[simp] theorem State.popInbound_outside : (s.popInbound g).outside = s.outside := rfl
@[simp] theorem State.popInbound_sampleAt : (s.popInbound g).sampleAt = s.sampleAt := rfl
@[simp] theorem State.popInbound_lanes : (s.popInbound g).lanes = s.lanes := rfl
@[simp] theorem State.popInbound_watches : (s.popInbound g).watches = s.watches := rfl
@[simp] theorem State.popInbound_ring : (s.popInbound g).ring = s.ring := rfl
@[simp] theorem State.popInbound_notices : (s.popInbound g).notices = s.notices := rfl
@[simp] theorem State.popInbound_lane (i : LaneId) : (s.popInbound g).lane i = s.lane i := rfl
@[simp] theorem State.popInbound_watch (i : WatchId) : (s.popInbound g).watch i = s.watch i := rfl
@[simp] theorem State.popInbound_slot (i : Nat) : (s.popInbound g).slot i = s.slot i := rfl
@[simp] theorem State.popInbound_claim (i : Nat) : (s.popInbound g).claim i = s.claim i := rfl
@[simp] theorem State.popInbound_refCount (i : Nat) : (s.popInbound g).refCount i = s.refCount i := rfl

end

section
variable (s : State) (l : LaneId) (drive sense rest : Lines)

@[simp] theorem State.claimFor_pending : (s.claimFor l drive sense rest).pending = s.pending := rfl
@[simp] theorem State.claimFor_now : (s.claimFor l drive sense rest).now = s.now := rfl
@[simp] theorem State.claimFor_freeIx : (s.claimFor l drive sense rest).freeIx = s.freeIx := rfl
@[simp] theorem State.claimFor_resetting : (s.claimFor l drive sense rest).resetting = s.resetting := rfl
@[simp] theorem State.claimFor_timestamp : (s.claimFor l drive sense rest).timestamp = s.timestamp := rfl
@[simp] theorem State.claimFor_guardPeriod : (s.claimFor l drive sense rest).guardPeriod = s.guardPeriod := rfl
@[simp] theorem State.claimFor_guard : (s.claimFor l drive sense rest).guard = s.guard := rfl
@[simp] theorem State.claimFor_link : (s.claimFor l drive sense rest).link = s.link := rfl
@[simp] theorem State.claimFor_slots : (s.claimFor l drive sense rest).slots = s.slots := rfl
@[simp] theorem State.claimFor_refs : (s.claimFor l drive sense rest).refs = s.refs := rfl
@[simp] theorem State.claimFor_sampled : (s.claimFor l drive sense rest).sampled = s.sampled := rfl
@[simp] theorem State.claimFor_outside : (s.claimFor l drive sense rest).outside = s.outside := rfl
@[simp] theorem State.claimFor_sampleAt : (s.claimFor l drive sense rest).sampleAt = s.sampleAt := rfl
@[simp] theorem State.claimFor_lanes : (s.claimFor l drive sense rest).lanes = s.lanes := rfl
@[simp] theorem State.claimFor_watches : (s.claimFor l drive sense rest).watches = s.watches := rfl
@[simp] theorem State.claimFor_ring : (s.claimFor l drive sense rest).ring = s.ring := rfl
@[simp] theorem State.claimFor_notices : (s.claimFor l drive sense rest).notices = s.notices := rfl
@[simp] theorem State.claimFor_lane (i : LaneId) : (s.claimFor l drive sense rest).lane i = s.lane i := rfl
@[simp] theorem State.claimFor_watch (i : WatchId) : (s.claimFor l drive sense rest).watch i = s.watch i := rfl
@[simp] theorem State.claimFor_slot (i : Nat) : (s.claimFor l drive sense rest).slot i = s.slot i := rfl
@[simp] theorem State.claimFor_refCount (i : Nat) : (s.claimFor l drive sense rest).refCount i = s.refCount i := rfl

end

@[simp] theorem State.popInbound_inbound (s : State) (g : List Frame) :
    (s.popInbound g).link.inbound = g := rfl

theorem State.lane_setLane (s : State) (l i : LaneId) (x : Lane) :
    (s.setLane l x).lane i = if l = i then x else s.lane i := by
  simp only [State.lane, State.setLane, Vector.get_eq_getElem, Vector.getElem_set, Fin.ext_iff]

@[simp] theorem State.lane_setLane_self (s : State) (l : LaneId) (x : Lane) :
    (s.setLane l x).lane l = x := by simp [State.lane_setLane]

@[simp] theorem State.lane_setLane_ne (s : State) {l i : LaneId} (x : Lane) (h : l ≠ i) :
    (s.setLane l x).lane i = s.lane i := by simp [State.lane_setLane, h]

theorem State.watch_setWatch (s : State) (w i : WatchId) (x : Watch) :
    (s.setWatch w x).watch i = if w = i then x else s.watch i := by
  simp only [State.watch, State.setWatch, Vector.get_eq_getElem, Vector.getElem_set, Fin.ext_iff]

@[simp] theorem State.watch_setWatch_self (s : State) (w : WatchId) (x : Watch) :
    (s.setWatch w x).watch w = x := by simp [State.watch_setWatch]

@[simp] theorem State.watch_setWatch_ne (s : State) {w i : WatchId} (x : Watch) (h : w ≠ i) :
    (s.setWatch w x).watch i = s.watch i := by simp [State.watch_setWatch, h]

/-! ### What acts outside a reset alone (R170) -/

theorem State.outsideReset_none (s : State) (f : State → State) (h : s.resetting = none) :
    s.outsideReset f = f s := by
  unfold State.outsideReset; split
  · rfl
  · rename_i hc; rw [h] at hc; cases hc

theorem State.outsideReset_some (s : State) (f : State → State) (h : s.resetting ≠ none) :
    s.outsideReset f = s := by
  unfold State.outsideReset; split
  · contradiction
  · rfl

end Sys2Proof.Machine
end

