-- ==== Sys2Proof/Laws/Ring.lean ====
section
/-!
SUPPORT. Everything the capture ring and the notice set can do when a record is handed over or a notice is
raised (R117 to R121, R130 to R132).
-/

namespace Sys2Proof.Machine

/-! ### Raising a notice -/

theorem NoticeSet.raise_of_records (n : NoticeSet) (k : NoticeKey) (d : NoticeDetail)
    (h : n.records k = true) :
    n.raise k d =
      { n with
        entries := (n.entries.filter fun e => e.key != k) ++ [n.entryFor k d]
        nextSerial := n.nextSerial + 1 } := by
  simp [NoticeSet.raise, h]

theorem NoticeSet.raise_of_masked (n : NoticeSet) (k : NoticeKey) (d : NoticeDetail)
    (h : n.records k = false) : n.raise k d = n := by
  simp [NoticeSet.raise, h]

@[simp] theorem NoticeSet.raise_mask (n : NoticeSet) (k : NoticeKey) (d : NoticeDetail) :
    (n.raise k d).mask = n.mask := by
  unfold NoticeSet.raise; split <;> rfl

@[simp] theorem NoticeSet.raise_records (n : NoticeSet) (k k' : NoticeKey) (d : NoticeDetail) :
    (n.raise k d).records k' = n.records k' := by
  simp [NoticeSet.records]

@[simp] theorem NoticeSet.entryFor_key (n : NoticeSet) (k : NoticeKey) (d : NoticeDetail) :
    (n.entryFor k d).key = k := by
  unfold NoticeSet.entryFor; split <;> rfl

@[simp] theorem NoticeSet.entryFor_detail (n : NoticeSet) (k : NoticeKey) (d : NoticeDetail) :
    (n.entryFor k d).detail = d := by
  unfold NoticeSet.entryFor; split <;> rfl

@[simp] theorem NoticeSet.entryFor_serial (n : NoticeSet) (k : NoticeKey) (d : NoticeDetail) :
    (n.entryFor k d).serial = n.nextSerial := by
  unfold NoticeSet.entryFor; split <;> rfl

@[simp] theorem NoticeSet.entryFor_reported (n : NoticeSet) (k : NoticeKey) (d : NoticeDetail) :
    (n.entryFor k d).reported = false := by
  unfold NoticeSet.entryFor; split <;> rfl

/-- A raise keeps the keys distinct (R128). -/
theorem NoticeSet.raise_nodup (n : NoticeSet) (k : NoticeKey) (d : NoticeDetail)
    (h : (n.entries.map NoticeEntry.key).Nodup) :
    ((n.raise k d).entries.map NoticeEntry.key).Nodup := by
  unfold NoticeSet.raise
  split
  · simp only [List.map_append, List.map_cons, List.map_nil, NoticeSet.entryFor_key]
    refine List.nodup_append.2 ⟨?_, List.nodup_singleton _, ?_⟩
    · exact (List.filter_sublist.map NoticeEntry.key).nodup h
    · intro a ha b hb
      simp only [List.mem_singleton] at hb
      subst hb
      obtain ⟨e, he, rfl⟩ := List.mem_map.1 ha
      simpa using (List.mem_filter.1 he).2
  · exact h

/-- After a raise every entry is an old one or the one raised. -/
theorem NoticeSet.mem_raise {n : NoticeSet} {k : NoticeKey} {d : NoticeDetail} {e : NoticeEntry}
    (h : e ∈ (n.raise k d).entries) :
    e ∈ n.entries ∨ (n.records k = true ∧ e = n.entryFor k d) := by
  unfold NoticeSet.raise at h
  split at h
  · rename_i hr
    rcases List.mem_append.1 h with h | h
    · exact .inl (List.mem_filter.1 h).1
    · exact .inr ⟨hr, by simpa using h⟩
  · exact .inl h

@[simp] theorem State.raise_notices (s : State) (k : NoticeKey) (d : NoticeDetail) :
    (s.raise k d).notices = s.notices.raise k d := rfl

@[simp] theorem State.raiseLane_notices (s : State) (k : LaneNotice) (l : LaneId)
    (d : NoticeDetail) : (s.raiseLane k l d).notices = s.notices.raise (.lane k l) d := rfl

/-! ### Handing a record to the ring -/

/-- The three ways of R118 to R120, in one place. -/
theorem State.takeRecord_cases (s : State) (b : RecordBody) :
    (s.ring.records.length < 512 ∧
      s.takeRecord b =
        (let s' := s.setRing { s.ring with
            records := s.ring.records ++
              [{ serial := s.ring.nextSerial, stamp := s.timestamp, body := b }]
            nextSerial := s.ring.nextSerial + 1 }
         if s.ring.records.length + 1 = s.ring.threshold then
           s'.raise .ringLevel (.count (s.ring.records.length + 1)) else s')) ∨
    (512 ≤ s.ring.records.length ∧ s.ring.policy = .keepOldest ∧
      s.takeRecord b =
        (s.setRing { s.ring with nextSerial := s.ring.nextSerial + 1 }).raise .ringLoss
          (.serial s.ring.nextSerial)) ∨
    (∃ oldest rest, 512 ≤ s.ring.records.length ∧ s.ring.policy = .keepNewest ∧
      s.ring.records = oldest :: rest ∧
      s.takeRecord b =
        (s.setRing { s.ring with
            records := rest ++
              [{ serial := s.ring.nextSerial, stamp := s.timestamp, body := b }]
            nextSerial := s.ring.nextSerial + 1 }).raise .ringLoss (.serial oldest.serial)) := by
  by_cases h : s.ring.records.length < 512
  · left
    refine ⟨h, ?_⟩
    simp [State.takeRecord, h]
  · right
    cases hp : s.ring.policy with
    | keepOldest => left; exact ⟨by omega, rfl, by simp [State.takeRecord, h, hp]⟩
    | keepNewest =>
      right
      cases hr : s.ring.records with
      | nil => simp [hr] at h
      | cons o rest =>
        refine ⟨o, rest, by simpa [hr] using h, rfl, rfl, ?_⟩
        have h' : ¬ (rest.length + 1 < 512) := by simpa [hr] using h
        simp [State.takeRecord, hp, hr, h']

section
variable (s : State) (b : RecordBody)

@[simp] theorem State.takeRecord_pending : (s.takeRecord b).pending = s.pending := by
  unfold State.takeRecord; dsimp only; repeat' split
  all_goals rfl

@[simp] theorem State.takeRecord_now : (s.takeRecord b).now = s.now := by
  unfold State.takeRecord; dsimp only; repeat' split
  all_goals rfl

@[simp] theorem State.takeRecord_freeIx : (s.takeRecord b).freeIx = s.freeIx := by
  unfold State.takeRecord; dsimp only; repeat' split
  all_goals rfl

@[simp] theorem State.takeRecord_resetting : (s.takeRecord b).resetting = s.resetting := by
  unfold State.takeRecord; dsimp only; repeat' split
  all_goals rfl

@[simp] theorem State.takeRecord_timestamp : (s.takeRecord b).timestamp = s.timestamp := by
  unfold State.takeRecord; dsimp only; repeat' split
  all_goals rfl

@[simp] theorem State.takeRecord_guardPeriod : (s.takeRecord b).guardPeriod = s.guardPeriod := by
  unfold State.takeRecord; dsimp only; repeat' split
  all_goals rfl

@[simp] theorem State.takeRecord_guard : (s.takeRecord b).guard = s.guard := by
  unfold State.takeRecord; dsimp only; repeat' split
  all_goals rfl

@[simp] theorem State.takeRecord_link : (s.takeRecord b).link = s.link := by
  unfold State.takeRecord; dsimp only; repeat' split
  all_goals rfl

@[simp] theorem State.takeRecord_slots : (s.takeRecord b).slots = s.slots := by
  unfold State.takeRecord; dsimp only; repeat' split
  all_goals rfl

@[simp] theorem State.takeRecord_refs : (s.takeRecord b).refs = s.refs := by
  unfold State.takeRecord; dsimp only; repeat' split
  all_goals rfl

@[simp] theorem State.takeRecord_claims : (s.takeRecord b).claims = s.claims := by
  unfold State.takeRecord; dsimp only; repeat' split
  all_goals rfl

@[simp] theorem State.takeRecord_sampled : (s.takeRecord b).sampled = s.sampled := by
  unfold State.takeRecord; dsimp only; repeat' split
  all_goals rfl

@[simp] theorem State.takeRecord_outside : (s.takeRecord b).outside = s.outside := by
  unfold State.takeRecord; dsimp only; repeat' split
  all_goals rfl

@[simp] theorem State.takeRecord_sampleAt : (s.takeRecord b).sampleAt = s.sampleAt := by
  unfold State.takeRecord; dsimp only; repeat' split
  all_goals rfl

@[simp] theorem State.takeRecord_lanes : (s.takeRecord b).lanes = s.lanes := by
  unfold State.takeRecord; dsimp only; repeat' split
  all_goals rfl

@[simp] theorem State.takeRecord_watches : (s.takeRecord b).watches = s.watches := by
  unfold State.takeRecord; dsimp only; repeat' split
  all_goals rfl

@[simp] theorem State.takeRecord_lane (i : LaneId) : (s.takeRecord b).lane i = s.lane i := by
  simp [State.lane]

@[simp] theorem State.takeRecord_watch (i : WatchId) : (s.takeRecord b).watch i = s.watch i := by
  simp [State.watch]

@[simp] theorem State.takeRecord_slot (i : Nat) : (s.takeRecord b).slot i = s.slot i := by
  simp [State.slot]

@[simp] theorem State.takeRecord_claim (i : Nat) : (s.takeRecord b).claim i = s.claim i := by
  simp [State.claim]

@[simp] theorem State.takeRecord_refCount (i : Nat) : (s.takeRecord b).refCount i = s.refCount i := by
  simp [State.refCount]

/-- Every record handed over takes one serial, stored or lost (R117). -/

@[simp] theorem State.takeRecord_nextSerial :
    (s.takeRecord b).ring.nextSerial = s.ring.nextSerial + 1 := by
  unfold State.takeRecord; dsimp only; repeat' split
  all_goals rfl

@[simp] theorem State.takeRecord_policy : (s.takeRecord b).ring.policy = s.ring.policy := by
  unfold State.takeRecord; dsimp only; repeat' split
  all_goals rfl

@[simp] theorem State.takeRecord_threshold :
    (s.takeRecord b).ring.threshold = s.ring.threshold := by
  unfold State.takeRecord; dsimp only; repeat' split
  all_goals rfl

/-- A record leaves the notices as they were, or raises one notice of the ring into them (R118 to R121). -/
theorem State.takeRecord_notices :
    (s.takeRecord b).notices = s.notices ∨
      ∃ k d, (s.takeRecord b).notices = s.notices.raise k d := by
  rcases s.takeRecord_cases b with ⟨_, h⟩ | ⟨_, _, h⟩ | ⟨o, r, _, _, _, h⟩
  · rw [h]; dsimp only; split
    · exact .inr ⟨_, _, rfl⟩
    · exact .inl rfl
  · rw [h]; exact .inr ⟨_, _, rfl⟩
  · rw [h]; exact .inr ⟨_, _, rfl⟩

/-- The ring never holds more than 512 records (R114). -/
theorem State.takeRecord_fill (hs : s.ring.records.length ≤ 512) :
    (s.takeRecord b).ring.records.length ≤ 512 := by
  rcases s.takeRecord_cases b with ⟨hl, h⟩ | ⟨_, _, h⟩ | ⟨o, r, hl, _, hr, h⟩
  · rw [h]; dsimp only; split <;> simp <;> omega
  · rw [h]; simpa using hs
  · rw [h]; simp [hr] at hs ⊢; omega

end

end Sys2Proof.Machine
end

