-- ==== Sys2Proof/Laws/LaneEngine.lean ====
section
/-!
SUPPORT. What the lane engine's operations can change at all: references, lanes, the ring and the notice
set (`LaneWork`). One lemma per operation; proofs cite these and do not unfold the operations.
-/

namespace Sys2Proof.Machine

/-- `t` differs from `s` in references, lanes, ring and notices alone, where the notices came by raising
and the ring by taking records. -/
structure LaneWork (s t : State) : Prop where
  frame : t = { s with refs := t.refs, lanes := t.lanes, ring := t.ring, notices := t.notices }
  notices : ∀ P : NoticeSet → Prop, (∀ n k d, P n → P (n.raise k d)) → P s.notices → P t.notices
  fill : s.ring.records.length ≤ 512 → t.ring.records.length ≤ 512
  threshold : t.ring.threshold = s.ring.threshold
  policy : t.ring.policy = s.ring.policy

namespace LaneWork

variable {s t u : State}

theorem refl (s : State) : LaneWork s s := ⟨rfl, fun _ _ h => h, id, rfl, rfl⟩

theorem trans (h : LaneWork s t) (g : LaneWork t u) : LaneWork s u where
  frame := by
    have h1 := h.frame
    have g1 := g.frame
    generalize u.refs = a at g1 ⊢
    generalize u.lanes = b at g1 ⊢
    generalize u.ring = c at g1 ⊢
    generalize u.notices = d at g1 ⊢
    rw [g1, h1]
  notices P hP hs := g.notices P hP (h.notices P hP hs)
  fill hs := g.fill (h.fill hs)
  threshold := g.threshold.trans h.threshold
  policy := g.policy.trans h.policy

theorem pending (h : LaneWork s t) : t.pending = s.pending := by rw [h.frame]

theorem now (h : LaneWork s t) : t.now = s.now := by rw [h.frame]

theorem freeIx (h : LaneWork s t) : t.freeIx = s.freeIx := by rw [h.frame]

theorem resetting (h : LaneWork s t) : t.resetting = s.resetting := by rw [h.frame]

theorem timestamp (h : LaneWork s t) : t.timestamp = s.timestamp := by rw [h.frame]

theorem guardPeriod (h : LaneWork s t) : t.guardPeriod = s.guardPeriod := by rw [h.frame]

theorem guard (h : LaneWork s t) : t.guard = s.guard := by rw [h.frame]

theorem link (h : LaneWork s t) : t.link = s.link := by rw [h.frame]

theorem slots (h : LaneWork s t) : t.slots = s.slots := by rw [h.frame]

theorem claims (h : LaneWork s t) : t.claims = s.claims := by rw [h.frame]

theorem sampled (h : LaneWork s t) : t.sampled = s.sampled := by rw [h.frame]

theorem outside (h : LaneWork s t) : t.outside = s.outside := by rw [h.frame]

theorem sampleAt (h : LaneWork s t) : t.sampleAt = s.sampleAt := by rw [h.frame]

theorem watches (h : LaneWork s t) : t.watches = s.watches := by rw [h.frame]

theorem slot (h : LaneWork s t) (n : Nat) : t.slot n = s.slot n := by
  simp [State.slot, h.slots]

theorem watch (h : LaneWork s t) (w : WatchId) : t.watch w = s.watch w := by
  simp [State.watch, h.watches]

theorem claim (h : LaneWork s t) (n : Nat) : t.claim n = s.claim n := by
  simp [State.claim, h.claims]

end LaneWork

theorem State.setLane_work (s : State) (l : LaneId) (x : Lane) : LaneWork s (s.setLane l x) :=
  ⟨rfl, fun _ _ h => h, id, rfl, rfl⟩

theorem State.raise_work (s : State) (k : NoticeKey) (d : NoticeDetail) :
    LaneWork s (s.raise k d) :=
  ⟨rfl, fun _ hP h => hP _ _ _ h, id, rfl, rfl⟩

theorem State.raiseLane_work (s : State) (k : LaneNotice) (l : LaneId) (d : NoticeDetail) :
    LaneWork s (s.raiseLane k l d) := s.raise_work _ _

theorem State.lowerRefs_work (s : State) (g : List SegmentEntry) : LaneWork s (s.lowerRefs g) :=
  ⟨rfl, fun _ _ h => h, id, rfl, rfl⟩

theorem State.raiseRefs_work (s : State) (g : List SegmentEntry) : LaneWork s (s.raiseRefs g) :=
  ⟨rfl, fun _ _ h => h, id, rfl, rfl⟩

theorem State.takeRecord_work (s : State) (b : RecordBody) : LaneWork s (s.takeRecord b) where
  frame := by
    unfold State.takeRecord; dsimp only; repeat' split
    all_goals rfl
  notices P hP h := by
    rcases s.takeRecord_notices b with e | ⟨k, d, e⟩ <;> rw [e]
    · exact h
    · exact hP _ _ _ h
  fill := s.takeRecord_fill b
  threshold := by simp
  policy := by simp

theorem State.beginStep_work (s : State) (l : LaneId) : LaneWork s (s.beginStep l) := by
  unfold State.beginStep; split <;> exact s.setLane_work _ _

theorem State.haltLane_work (s : State) (l : LaneId) (p : Position) (r : ResumePoint) :
    LaneWork s (s.haltLane l p r) :=
  (s.setLane_work _ _).trans (State.raiseLane_work _ _ _ _)

theorem State.pauseLane_work (s : State) (l : LaneId) (p : Position) :
    LaneWork s (s.pauseLane l p) :=
  (s.setLane_work _ _).trans (State.raiseLane_work _ _ _ _)

theorem State.goOnAt_work (s : State) (l : LaneId) (p : Position) : LaneWork s (s.goOnAt l p) := by
  unfold State.goOnAt; split
  · exact s.pauseLane_work _ _
  · exact (s.setLane_work _ _).trans (State.beginStep_work _ _)

theorem State.reachCheckpoint_work (s : State) (l : LaneId) (i : Nat) :
    LaneWork s (s.reachCheckpoint l i) := by
  unfold State.reachCheckpoint; split
  · exact s.raiseLane_work _ _ _
  · exact .refl s

theorem State.recordStart_work (s : State) (l : LaneId) (src : Option StartSource) :
    LaneWork s (s.recordStart l src) := by
  unfold State.recordStart; split
  · exact s.takeRecord_work _
  · exact .refl s

theorem State.recordEnd_work (s : State) (l : LaneId) (r : Result) :
    LaneWork s (s.recordEnd l r) := by
  unfold State.recordEnd; split
  · exact s.takeRecord_work _
  · exact .refl s

theorem State.takeStart_work (s : State) (l : LaneId) (src : StartSource) :
    LaneWork s (s.takeStart l src) :=
  (((s.setLane_work _ _).trans (State.recordStart_work _ _ _)).trans
    (State.reachCheckpoint_work _ _ _)).trans (State.beginStep_work _ _)

theorem State.startLane_work (s : State) (l : LaneId) (src : StartSource) :
    LaneWork s (s.startLane l src) := by
  unfold State.startLane; split
  · exact s.takeStart_work _ _
  · exact .refl s

theorem State.endRun_work (s : State) (l : LaneId) (r : Result) : LaneWork s (s.endRun l r) :=
  (((s.recordEnd_work _ _).trans (State.raiseLane_work _ _ _ _)).trans
    (State.lowerRefs_work _ _)).trans (State.setLane_work _ _ _)

theorem State.abortLane_work (s : State) (l : LaneId) (r : Result) :
    LaneWork s (s.abortLane l r) := by
  unfold State.abortLane; split
  · exact .refl s
  · exact s.endRun_work _ _

theorem State.restartRun_work (s : State) (l : LaneId) : LaneWork s (s.restartRun l) :=
  (((s.setLane_work _ _).trans (State.recordStart_work _ _ _)).trans
    (State.reachCheckpoint_work _ _ _)).trans (State.goOnAt_work _ _ _)

theorem State.endDecision_work (s : State) (l : LaneId) : LaneWork s (s.endDecision l) := by
  unfold State.endDecision; dsimp only; repeat' split
  · exact s.endRun_work _ _
  · exact s.restartRun_work _
  · exact s.endRun_work _ _

theorem State.nextEntry_work (s : State) (l : LaneId) (i : Nat) : LaneWork s (s.nextEntry l i) :=
  (s.reachCheckpoint_work _ _).trans (State.goOnAt_work _ _ _)

theorem State.afterHalt_work (s : State) (l : LaneId) : LaneWork s (s.afterHalt l) := by
  unfold State.afterHalt; dsimp only; split
  · exact s.endDecision_work _
  · exact s.nextEntry_work _ _

theorem State.reportMark_work (s : State) (l : LaneId) (i : Nat) :
    LaneWork s (s.reportMark l i) := by
  unfold State.reportMark; split
  · exact s.raiseLane_work _ _ _
  · exact .refl s

theorem State.deliverCue_work (s : State) (l : LaneId) (i : Nat) :
    LaneWork s (s.deliverCue l i) := by
  unfold State.deliverCue; split
  · exact s.startLane_work _ _
  · exact .refl s

theorem State.passCheckpoint_work (s : State) (l : LaneId) (i : Nat) :
    LaneWork s (s.passCheckpoint l i) := by
  unfold State.passCheckpoint; split
  · exact s.raiseLane_work _ _ _
  · exact .refl s

theorem State.complete_work (s : State) (l : LaneId) : LaneWork s (s.complete l) := by
  have h (i : Nat) : LaneWork s (((s.reportMark l i).deliverCue l i).passCheckpoint l i) :=
    ((s.reportMark_work l i).trans (State.deliverCue_work _ _ _)).trans
      (State.passCheckpoint_work _ _ _)
  unfold State.complete; dsimp only; split
  · exact (h _).trans (State.haltLane_work _ _ _ _)
  · exact (h _).trans (State.afterHalt_work _ _)

theorem State.endStep_work (s : State) (l : LaneId) : LaneWork s (s.endStep l) := by
  unfold State.endStep; dsimp only; split
  · exact (s.setLane_work _ _).trans (State.complete_work _ _)
  · exact (s.setLane_work _ _).trans (State.goOnAt_work _ _ _)

theorem State.recordFault_work (s : State) (l : LaneId) (b : RecordBody) :
    LaneWork s (s.recordFault l b) :=
  ((s.takeRecord_work _).trans (State.raiseLane_work _ _ _ _)).trans (State.setLane_work _ _ _)

theorem State.act_work (s : State) (l : LaneId) (m : Mismatch) (f : State → State)
    (hf : LaneWork s (f s)) : LaneWork s (s.act l m f) := by
  unfold State.act; split
  · exact hf
  · exact s.haltLane_work _ _ _
  · exact s.abortLane_work _ _

theorem State.holdExpires_work (s : State) (l : LaneId) (st : StepRecord) :
    LaneWork s (s.holdExpires l st) := by
  unfold State.holdExpires; dsimp only; split
  · exact (s.recordFault_work _ _).trans (State.act_work _ _ _ _ (State.endStep_work _ _))
  · exact s.endStep_work _

theorem State.limitExpires_work (s : State) (l : LaneId) (st : StepRecord) :
    LaneWork s (s.limitExpires l st) := by
  unfold State.limitExpires; dsimp only
  exact ((s.setLane_work _ _).trans (State.recordFault_work _ _ _)).trans
    (State.act_work _ _ _ _ (State.endStep_work _ _))

theorem State.compareAt_work (s : State) (l : LaneId) (st : StepRecord) (v : Lines) :
    LaneWork s (s.compareAt l st v) := by
  unfold State.compareAt; dsimp only; repeat' split
  · exact s.setLane_work _ _
  · exact ((s.setLane_work _ _).trans (State.recordFault_work _ _ _)).trans
      (State.act_work _ _ _ _ (.refl _))
  · exact s.endStep_work _
  · exact s.setLane_work _ _
  · exact .refl s
  · exact .refl s

theorem State.resumeLane_work (s : State) (l : LaneId) : LaneWork s (s.resumeLane l) := by
  unfold State.resumeLane; dsimp only; split
  · exact (s.setLane_work _ _).trans (State.beginStep_work _ _)
  · exact (s.setLane_work _ _).trans (State.beginStep_work _ _)
  · exact (s.setLane_work _ _).trans (State.complete_work _ _)
  · exact (s.setLane_work _ _).trans (State.afterHalt_work _ _)

theorem State.askPause_work (s : State) (l : LaneId) : LaneWork s (s.askPause l) := by
  unfold State.askPause; split
  · exact s.setLane_work _ _
  · exact .refl s

theorem State.laneAction_work (s : State) (w : WatchId) (l : LaneId) (a : LaneAction) :
    LaneWork s (s.laneAction w l a) := by
  cases a
  · exact s.startLane_work _ _
  · exact s.askPause_work _
  · exact s.abortLane_work _ _

theorem State.laneTakesChange_work (s : State) (v : Lines) (l : LaneId) :
    LaneWork s (s.laneTakesChange v l) := by
  unfold State.laneTakesChange; split
  · exact s.compareAt_work _ _ _
  · exact .refl s

/-- A fold of lane work is lane work. -/
theorem LaneWork.foldl {α : Type} (f : State → α → State) (hf : ∀ s a, LaneWork s (f s a))
    (xs : List α) (s : State) : LaneWork s (xs.foldl f s) := by
  induction xs generalizing s with
  | nil => exact .refl s
  | cons a as ih => exact (hf s a).trans (ih _)

end Sys2Proof.Machine
end

