-- ==== Sys2Proof/Laws/Store.lean ====
section
/-!
SUPPORT. The step store and the line sets: what a key holds after every operation on keyed data, that each
operation keeps the canonical form, the pages a run locks, and the bits and lowest line of a line set.
-/

namespace Sys2Proof.Machine

/-! ### Keyed data -/

section

variable {α : Type}

/-- The canonical form, said of all pairs: keys strictly rising. -/
theorem Sparse.wf_iff (m : Sparse α) : Sparse.wf m = true ↔ m.Pairwise fun a b => a.1 < b.1 := by
  induction m with
  | nil => simp [Sparse.wf]
  | cons x xs ih =>
    cases xs with
    | nil => simp [Sparse.wf]
    | cons y ys =>
      obtain ⟨k, v⟩ := x
      obtain ⟨k', v'⟩ := y
      rw [Sparse.wf, Bool.and_eq_true, ih]
      constructor
      · rintro ⟨h, hp⟩
        have h : k < k' := by simpa using h
        refine List.pairwise_cons.2 ⟨fun b hb => ?_, hp⟩
        rcases List.mem_cons.1 hb with rfl | hb
        · exact h
        · exact Nat.lt_trans h ((List.pairwise_cons.1 hp).1 b hb)
      · intro hp
        have h := List.pairwise_cons.1 hp
        exact ⟨by simpa using h.1 _ (List.mem_cons_self ..), h.2⟩

/-- What a key holds after a put. -/
theorem Sparse.get_put (m : Sparse α) (k : Nat) (v : α) (k' : Nat) :
    Sparse.get (Sparse.put m k v) k' = if k' = k then some v else Sparse.get m k' := by
  induction m with
  | nil => simp [Sparse.put, Sparse.get, eq_comm]
  | cons x xs ih =>
    obtain ⟨a, b⟩ := x
    rw [Sparse.put]
    split
    · rw [Sparse.get]; simp [eq_comm]
    · split
      · rename_i h; subst h
        by_cases h' : k' = k
        · simp [Sparse.get, h']
        · simp [Sparse.get, h', Ne.symm h']
      · rw [Sparse.get, Sparse.get, ih]
        by_cases h' : a = k'
        · subst h'; rename_i h; simp [Ne.symm h]
        · simp [h']

/-- Every entry of a put is the new one or an old one. -/
theorem Sparse.mem_put {m : Sparse α} {k : Nat} {v : α} {e : Nat × α} (h : e ∈ Sparse.put m k v) :
    e = (k, v) ∨ e ∈ m := by
  induction m with
  | nil => simpa [Sparse.put] using h
  | cons x xs ih =>
    obtain ⟨a, b⟩ := x
    rw [Sparse.put] at h
    split at h
    · rcases List.mem_cons.1 h with h | h
      · exact .inl h
      · exact .inr h
    · split at h
      · rcases List.mem_cons.1 h with h | h
        · exact .inl h
        · exact .inr (List.mem_cons_of_mem _ h)
      · rcases List.mem_cons.1 h with h | h
        · exact .inr (h ▸ List.mem_cons_self ..)
        · rcases ih h with h | h
          · exact .inl h
          · exact .inr (List.mem_cons_of_mem _ h)

/-- A put keeps the canonical form. -/
theorem Sparse.put_wf (m : Sparse α) (hm : Sparse.wf m = true) (k : Nat) (v : α) :
    Sparse.wf (Sparse.put m k v) = true := by
  rw [Sparse.wf_iff] at hm ⊢
  induction m with
  | nil => simp [Sparse.put]
  | cons x xs ih =>
    obtain ⟨a, b⟩ := x
    have hp := List.pairwise_cons.1 hm
    rw [Sparse.put]
    split
    · rename_i h
      refine List.pairwise_cons.2 ⟨fun y hy => ?_, hm⟩
      rcases List.mem_cons.1 hy with rfl | hy
      · exact h
      · exact Nat.lt_trans h (hp.1 y hy)
    · split
      · rename_i h; subst h
        exact List.pairwise_cons.2 ⟨hp.1, hp.2⟩
      · refine List.pairwise_cons.2 ⟨fun y hy => ?_, ih hp.2⟩
        rcases Sparse.mem_put hy with rfl | hy
        · change a < k; omega
        · exact hp.1 y hy

/-- A run of puts keeps the canonical form. -/
theorem Sparse.putRun_wf (vs : List α) (m : Sparse α) (hm : Sparse.wf m = true) (first : Nat) :
    Sparse.wf (Sparse.putRun m first vs) = true := by
  induction vs generalizing m first with
  | nil => exact hm
  | cons v vs ih => exact ih _ (Sparse.put_wf m hm first v) _

/-- What a key holds after a run of puts. -/
theorem Sparse.get_putRun (vs : List α) (m : Sparse α) (first k : Nat) :
    Sparse.get (Sparse.putRun m first vs) k =
      if first ≤ k ∧ k < first + vs.length then vs[k - first]? else Sparse.get m k := by
  induction vs generalizing m first with
  | nil => rw [Sparse.putRun, if_neg (by simp only [List.length_nil]; omega)]
  | cons v vs ih =>
    rw [Sparse.putRun, ih, Sparse.get_put]
    simp only [List.length_cons]
    by_cases h : k = first
    · subst h; rw [if_neg (by omega), if_pos rfl, if_pos (by omega)]; simp
    · by_cases h' : first + 1 ≤ k ∧ k < first + 1 + vs.length
      · rw [if_pos h', if_pos (by omega), show k - first = (k - (first + 1)) + 1 by omega]; simp
      · rw [if_neg h', if_neg h, if_neg (by omega)]

/-- Every entry of a run of puts is one of the run or an old one. -/
theorem Sparse.mem_putRun {vs : List α} {m : Sparse α} {first : Nat} {e : Nat × α}
    (h : e ∈ Sparse.putRun m first vs) :
    (first ≤ e.1 ∧ e.1 < first + vs.length ∧ e.2 ∈ vs) ∨ e ∈ m := by
  induction vs generalizing m first with
  | nil => exact .inr h
  | cons v vs ih =>
    simp only [List.length_cons]
    rcases ih h with ⟨h1, h2, h3⟩ | h
    · exact .inl ⟨by omega, by omega, List.mem_cons_of_mem _ h3⟩
    · rcases Sparse.mem_put h with rfl | h
      · exact .inl ⟨Nat.le_refl _, by dsimp only; omega, List.mem_cons_self ..⟩
      · exact .inr h

/-- Removing a run keeps the canonical form. -/
theorem Sparse.eraseRun_wf (m : Sparse α) (hm : Sparse.wf m = true) (first n : Nat) :
    Sparse.wf (Sparse.eraseRun m first n) = true := by
  rw [Sparse.wf_iff] at hm ⊢
  exact hm.filter _

/-- What a key holds after a run is removed. -/
theorem Sparse.get_eraseRun (m : Sparse α) (first n k : Nat) :
    Sparse.get (Sparse.eraseRun m first n) k =
      if first ≤ k ∧ k < first + n then none else Sparse.get m k := by
  induction m with
  | nil => simp [Sparse.eraseRun, Sparse.get]
  | cons x xs ih =>
    obtain ⟨a, b⟩ := x
    unfold Sparse.eraseRun at ih ⊢
    by_cases ha : first ≤ a ∧ a < first + n
    · rw [List.filter_cons_of_neg (by simp; omega), ih, Sparse.get]
      split
      · rfl
      · rw [if_neg (by omega)]
    · rw [List.filter_cons_of_pos (by simp; omega), Sparse.get, Sparse.get, ih]
      by_cases h : a = k
      · subst h; simp [ha]
      · simp [h]

/-- A key holds something exactly when an entry lists it. -/
theorem Sparse.get_ne_none (m : Sparse α) (k : Nat) :
    Sparse.get m k ≠ none ↔ ∃ e ∈ m, e.1 = k := by
  induction m with
  | nil => simp [Sparse.get]
  | cons x xs ih =>
    obtain ⟨a, b⟩ := x
    rw [Sparse.get]
    by_cases h : a = k <;> simp [h, ih]

/-- What a key holds stands in an entry. -/
theorem Sparse.mem_of_get {m : Sparse α} {k : Nat} {v : α} (h : Sparse.get m k = some v) :
    (k, v) ∈ m := by
  induction m with
  | nil => simp [Sparse.get] at h
  | cons x xs ih =>
    obtain ⟨a, b⟩ := x
    rw [Sparse.get] at h
    split at h
    · rename_i h'; subst h'; cases h; exact List.mem_cons_self ..
    · exact List.mem_cons_of_mem _ (ih h)

end

/-- The store of the reset state is in canonical form. -/
theorem State.reset_slots_wf : Sparse.wf State.reset.slots = true := rfl

/-- A page is filled exactly when a slot of it holds a step (R14). -/
theorem State.filled_iff (s : State) (p : Nat) :
    s.filled p = true ↔ ∃ k, k / 16 = p ∧ s.slot k ≠ none := by
  unfold State.filled State.slot
  rw [List.any_eq_true]
  constructor
  · rintro ⟨e, he, hp⟩
    exact ⟨e.1, by simpa [pageOf] using hp, (Sparse.get_ne_none _ _).2 ⟨e, he, rfl⟩⟩
  · rintro ⟨k, hk, h⟩
    obtain ⟨e, he, rfl⟩ := (Sparse.get_ne_none _ _).1 h
    exact ⟨e, he, by simpa [pageOf] using hk⟩

/-! ### Locked pages -/

/-- The first number below `k` that satisfies a test. -/
theorem find_range_eq_some {k i : Nat} {p : Nat → Bool} :
    (List.range k).find? p = some i ↔ i < k ∧ p i = true ∧ ∀ j, j < i → p j = false := by
  rw [List.find?_range_eq_some]
  simp only [List.mem_range, Bool.not_eq_true']
  tauto

theorem find_range_eq_none {k : Nat} {p : Nat → Bool} :
    (List.range k).find? p = none ↔ ∀ j, j < k → p j = false := by
  simp

/-- The test that finds a locked page of a run. -/
theorem lockTest_iff (s : State) (first n p : Nat) :
    decide ((decide (pageOf first ≤ p) && decide (p ≤ pageOf (first + n - 1))) = true
        ∧ decide (0 < s.refCount p) = true) = true ↔
      (first / 16 ≤ p ∧ p ≤ (first + n - 1) / 16) ∧ 0 < s.refCount p := by
  have h1 : decide (pageOf first ≤ p) = true ↔ first / 16 ≤ p := decide_eq_true_iff
  have h2 : decide (p ≤ pageOf (first + n - 1)) = true ↔ p ≤ (first + n - 1) / 16 :=
    decide_eq_true_iff
  rw [decide_eq_true_iff, Bool.and_eq_true, h1, h2, decide_eq_true_iff]

/-- No page of the run has a count above 0 (R10, check 3). -/
theorem State.lockedPage_eq_none (s : State) (first n : Nat) (h : first + n ≤ 2048) :
    s.lockedPage first n = none ↔
      ∀ p, first / 16 ≤ p ∧ p ≤ (first + n - 1) / 16 → s.refCount p = 0 := by
  unfold State.lockedPage pagesOfRun
  rw [List.find?_filter, find_range_eq_none]
  constructor
  · intro hp p hr
    by_contra hc
    have := (lockTest_iff s first n p).2 ⟨hr, Nat.pos_of_ne_zero hc⟩
    rw [hp p (by omega)] at this
    cases this
  · intro hp p _
    rw [Bool.eq_false_iff]
    intro hc
    have := (lockTest_iff s first n p).1 hc
    have := hp p this.1
    omega

/-- The lowest page of the run with a count above 0 (R10, check 3). -/
theorem State.lockedPage_eq_some (s : State) (first n p : Nat) (h : first + n ≤ 2048) :
    s.lockedPage first n = some p ↔
      (first / 16 ≤ p ∧ p ≤ (first + n - 1) / 16) ∧ 0 < s.refCount p
        ∧ ∀ q, first / 16 ≤ q ∧ q ≤ (first + n - 1) / 16 → q < p → s.refCount q = 0 := by
  unfold State.lockedPage pagesOfRun
  rw [List.find?_filter, find_range_eq_some, lockTest_iff]
  constructor
  · rintro ⟨_, ⟨hr, hc⟩, hq⟩
    refine ⟨hr, hc, fun q hr' hlt => ?_⟩
    by_contra hc
    have := (lockTest_iff s first n q).2 ⟨hr', Nat.pos_of_ne_zero hc⟩
    rw [hq q hlt] at this
    cases this
  · rintro ⟨hr, hc, hq⟩
    refine ⟨by omega, ⟨hr, hc⟩, fun q hlt => ?_⟩
    rw [Bool.eq_false_iff]
    intro hc
    have := (lockTest_iff s first n q).1 hc
    have := hq q this.1 hlt
    omega

/-! ### Page references -/

theorem State.refCount_mapIdx (s : State) (g : Nat → Nat → Nat) (p : Nat) (hp : p < 128) :
    (s.setRefs (s.refs.mapIdx g)).refCount p = g p (s.refCount p) := by
  simp [State.refCount, State.setRefs, hp]

/-- A count after a list's pages are locked (R7). -/
theorem State.refCount_raiseRefs (s : State) (list : List SegmentEntry) (p : Nat) (hp : p < 128) :
    (s.raiseRefs list).refCount p = if touches list p then s.refCount p + 1 else s.refCount p :=
  s.refCount_mapIdx (fun p c => if touches list p then c + 1 else c) p hp

/-- A count after a list's pages are given back (R8). -/
theorem State.refCount_lowerRefs (s : State) (list : List SegmentEntry) (p : Nat) (hp : p < 128) :
    (s.lowerRefs list).refCount p = if touches list p then s.refCount p - 1 else s.refCount p :=
  s.refCount_mapIdx (fun p c => if touches list p then c - 1 else c) p hp

/-! ### Line sets -/

theorem lineSetBelow_bit (p : Nat → Bool) (k n : Nat) (hk : k ≤ 40) :
    (lineSetBelow p k).getLsbD n = (decide (n < k) && p n) := by
  induction k with
  | zero => simp [lineSetBelow]
  | succ k ih =>
    have ih := ih (by omega)
    have hb : (1#40 <<< k).getLsbD n = decide (n = k) := by
      simp only [BitVec.getLsbD_shiftLeft, BitVec.getLsbD_one]
      by_cases h : n = k <;> simp [h] <;> omega
    unfold lineSetBelow
    split
    · rename_i hp
      rw [BitVec.getLsbD_or, ih, hb]
      by_cases h : n = k
      · subst h; simp [hp]
      · simp only [h, decide_false, Bool.or_false]
        congr 1; simp; omega
    · rename_i hp
      rw [ih]
      by_cases h : n = k
      · subst h; simp [hp]
      · congr 1; simp; omega

/-- A bit of a line set. -/
theorem lineSet_bit (p : Nat → Bool) (n : Nat) :
    (lineSet p).getLsbD n = (decide (n < 40) && p n) :=
  lineSetBelow_bit p 40 n (Nat.le_refl _)

theorem lowestLine_eq_some {v : Lines} {n : Nat} :
    lowestLine v = some n ↔
      n < 40 ∧ v.getLsbD n = true ∧ ∀ m, m < n → v.getLsbD m = false :=
  find_range_eq_some

theorem lowestLine_eq_none {v : Lines} :
    lowestLine v = none ↔ ∀ n, n < 40 → v.getLsbD n = false :=
  find_range_eq_none

/-- The claim of a line after CLAIM_LINES or RELEASE_LINES (R26, R27). -/
theorem State.claim_claimFor (s : State) (l : LaneId) (drive sense rest : Lines) (n : Nat)
    (hn : n < 40) :
    (s.claimFor l drive sense rest).claim n =
      if drive.getLsbD n then .drive l (rest.getLsbD n)
      else if sense.getLsbD n then .sense l
      else if (s.claim n).owner = some l then .free
      else s.claim n := by
  simp [State.claim, State.claimFor, State.setClaims, hn]

/-- A line is driven exactly when the claim map says so. -/
theorem State.driven_bit (s : State) (n : Nat) (hn : n < 40) :
    s.driven.getLsbD n = true ↔ ∃ l rest, s.claim n = .drive l rest := by
  simp only [State.driven, lineSet_bit, hn]
  cases s.claim n <;> simp

/-- A driven line of an IDLE lane stands at its rest level. -/
theorem State.drivenLevels_idle (s : State) (n : Nat) (hn : n < 40) (l : LaneId) (rest : Bool)
    (hc : s.claim n = .drive l rest) (hl : (s.lane l).state = .idle) :
    s.drivenLevels.getLsbD n = rest := by
  simp only [State.drivenLevels, lineSet_bit, hc, hl, hn, decide_true, Bool.true_and]

end Sys2Proof.Machine
end

