-- ==== Sys2Proof/Laws/LaneRuns.lean ====
section
/-!
SUPPORT. Everything each operation of the lane engine does, once, in the words of Safety.lean: a step's
beginning, going on, halting, a start, the end of a run, the end decision, an entry's completion, the end of
a step, and the report of a fault.
-/

namespace Sys2Proof.Machine

/-! ### Lane updates and reports commute -/

section

variable (s : State) (l : LaneId) (x : Lane)

theorem State.takeRecord_setLane (b : RecordBody) :
    (s.setLane l x).takeRecord b = (s.takeRecord b).setLane l x := by
  unfold State.takeRecord
  simp only [State.setLane_ring, State.setLane_timestamp]
  by_cases h : s.ring.records.length < 512
  · simp only [h, if_true, State.setRing_ring, List.length_append, List.length_cons, List.length_nil]
    by_cases h' : s.ring.records.length + (0 + 1) = s.ring.threshold
    · rw [if_pos h', if_pos h']; rfl
    · rw [if_neg h', if_neg h']; rfl
  · simp only [h, if_false]
    cases s.ring.policy
    · rfl
    · cases s.ring.records <;> rfl

@[simp] theorem State.setLane_setLane (y : Lane) :
    (s.setLane l x).setLane l y = s.setLane l y := by
  simp [State.setLane]

@[simp] theorem State.setLane_lane_self : s.setLane l (s.lane l) = s := by
  have h : s.lanes.set l.val (s.lanes.get l) l.isLt = s.lanes := by
    apply Vector.ext
    intro i hi
    rw [Vector.getElem_set]
    split
    · rename_i h; subst h; rfl
    · rfl
  unfold State.setLane State.lane
  rw [h]

end

/-! ### A step begins (R50) -/

theorem Lane.withStep_begins (x : Lane) (st : StepRecord) (now : Moment) :
    (x.withStep st now).begins st x.position now := by
  refine ⟨rfl, rfl, rfl, rfl, ?_, rfl, rfl, rfl⟩
  show st.deadline x.options.tick.micros now = _
  unfold StepRecord.deadline
  cases st.kind <;> simp [Lane.withStep]

theorem State.beginStep_frame (s : State) (l : LaneId) :
    s.beginStep l = { s with lanes := (s.beginStep l).lanes } := by
  unfold State.beginStep; split <;> rfl

theorem State.beginStep_other (s : State) (l k : LaneId) (h : k ≠ l) :
    (s.beginStep l).lane k = s.lane k := by
  unfold State.beginStep; split <;> exact State.lane_setLane_ne _ _ (Ne.symm h)

theorem State.beginStep_some (s : State) (l : LaneId) (st : StepRecord)
    (h : s.slot (s.lane l).slotNumber = some st) :
    (s.beginStep l).lane l = (s.lane l).withStep st s.now := by
  unfold State.beginStep; rw [h]; exact State.lane_setLane_self _ _ _

theorem State.beginStep_none (s : State) (l : LaneId)
    (h : s.slot (s.lane l).slotNumber = none) : (s.beginStep l).lane l = (s.lane l).noStep := by
  unfold State.beginStep; rw [h]; exact State.lane_setLane_self _ _ _

/-- A beginning step changes at its lane what `withStep` or `noStep` changes, and no more. -/
theorem State.beginStep_lane (s : State) (l : LaneId) :
    (∃ st, s.slot (s.lane l).slotNumber = some st
        ∧ (s.beginStep l).lane l = (s.lane l).withStep st s.now)
      ∨ (s.slot (s.lane l).slotNumber = none ∧ (s.beginStep l).lane l = (s.lane l).noStep) := by
  cases h : s.slot (s.lane l).slotNumber with
  | some st => exact .inl ⟨st, rfl, s.beginStep_some l st h⟩
  | none => exact .inr ⟨rfl, s.beginStep_none l h⟩

/-! ### Going on, pausing, halting (R68, R77, R85) -/

theorem State.goOnAt_goesOnAt (s : State) (l : LaneId) (p : Position) :
    (s.goOnAt l p).goesOnAt s l p := by
  unfold State.goOnAt
  split
  · rename_i hp
    unfold State.pauseLane
    refine ⟨rfl, fun k hk => State.lane_setLane_ne _ _ (Ne.symm hk), ?_, fun h => ?_, fun _ => ?_⟩
    · simp [Lane.sameRun, Lane.sameProgram, Lane.noStep]
    · rw [h] at hp; cases hp
    · simp [Lane.noStep, Lane.stepless]
  · rename_i hp
    have hp : (s.lane l).pausePending = false := by simpa using hp
    generalize hs' : s.setLane l { s.lane l with position := p } = s'
    have hl : s'.lane l = { s.lane l with position := p } := by rw [← hs']; simp
    have hb := s'.beginStep_lane l
    refine ⟨?_, fun k hk => ?_, ?_, fun _ => ⟨?_, ?_, ?_, ?_, fun st hst => ?_⟩, fun h => ?_⟩
    · rw [s'.beginStep_frame, ← hs']; rfl
    · rw [s'.beginStep_other l k hk, ← hs']; exact State.lane_setLane_ne _ _ (Ne.symm hk)
    · rcases hb with ⟨st, -, h⟩ | ⟨-, h⟩ <;> rw [h, hl] <;>
        simp [Lane.sameRun, Lane.sameProgram, Lane.noStep, Lane.withStep]
    · rw [s'.beginStep_frame, ← hs']; rfl
    · rcases hb with ⟨st, -, h⟩ | ⟨-, h⟩ <;> rw [h, hl] <;> exact hp
    · rcases hb with ⟨st, -, h⟩ | ⟨-, h⟩ <;> rw [h, hl] <;> rfl
    · rcases hb with ⟨st, -, h⟩ | ⟨-, h⟩ <;> rw [h, hl] <;> rfl
    · have hst' : s'.slot (s'.lane l).slotNumber = some st := by rw [hl, ← hs']; exact hst
      rw [s'.beginStep_some l st hst', hl, ← hs']
      exact Lane.withStep_begins { s.lane l with position := p } st s.now
    · rw [h] at hp; cases hp

theorem State.haltLane_haltsAt (s : State) (l : LaneId) (p : Position) (r : ResumePoint) :
    (s.haltLane l p r).haltsAt s l p r := by
  unfold State.haltLane
  refine ⟨rfl, fun k hk => State.lane_setLane_ne _ _ (Ne.symm hk), ?_, ?_⟩
  · simp [Lane.sameRun, Lane.sameProgram, Lane.noStep]
  · simp [Lane.noStep, Lane.stepless]

/-! ### A start (R42) -/

theorem State.startReports_eq (s : State) (l : LaneId) (src : Option StartSource) :
    (s.recordStart l src).reachCheckpoint l 0 = s.startReports l src := by
  unfold State.recordStart State.reachCheckpoint State.startReports
  split <;> simp [State.raiseLane]

theorem State.startReports_frame (s : State) (l : LaneId) (src : Option StartSource) :
    s.startReports l src =
      { s with ring := (s.startReports l src).ring, notices := (s.startReports l src).notices } := by
  unfold State.startReports
  dsimp only
  have h := (s.takeRecord_work (.laneStart l src (s.lane l).passCount)).frame
  simp only [State.takeRecord_refs, State.takeRecord_lanes] at h
  split <;> split
  · show State.setNotices _ _ = _
    rw [h]; rfl
  · rfl
  · exact h
  · rfl

@[simp] theorem State.startReports_lanes (s : State) (l : LaneId) (src : Option StartSource) :
    (s.startReports l src).lanes = s.lanes := by rw [s.startReports_frame]

@[simp] theorem State.startReports_lane (s : State) (l k : LaneId) (src : Option StartSource) :
    (s.startReports l src).lane k = s.lane k := by simp [State.lane]

/-- A start's reports read of the lane its options and its pass count alone. -/
theorem State.startReports_setLane (s : State) (l : LaneId) (src : Option StartSource) (y : Lane)
    (ho : y.options = (s.lane l).options) (hp : y.passCount = (s.lane l).passCount) :
    (s.setLane l y).startReports l src = (s.startReports l src).setLane l y := by
  unfold State.startReports
  simp only [State.lane_setLane_self, ho, hp, State.takeRecord_setLane]
  split <;> split <;> rfl

/-- Everything a start does at its lane. -/
theorem State.takeStart_spec (s : State) (l : LaneId) (src : StartSource) :
    s.takeStart l src =
        { s with
          lanes := (s.takeStart l src).lanes, ring := (s.takeStart l src).ring
          notices := (s.takeStart l src).notices }
      ∧ (s.takeStart l src).keepsOtherLanes s l
      ∧ (s.takeStart l src).reportsAs (s.startReports l (some src))
      ∧ ∀ st, s.slot (s.lane l).firstSlot = some st →
          ((s.takeStart l src).lane l).startedBy (s.lane l) src st s.now := by
  have he : s.takeStart l src =
      ((s.startReports l (some src)).setLane l
        { s.lane l with
          state := .running, triggerArmed := false, position := Position.first,
          runSource := some src }).beginStep l := by
    unfold State.takeStart
    rw [State.startReports_eq]
    exact congrArg (fun u => State.beginStep u l) (State.startReports_setLane s l _ _ rfl rfl)
  rw [he]
  generalize hy : ({ s.lane l with
      state := .running, triggerArmed := false, position := Position.first,
      runSource := some src } : Lane) = y
  generalize hr : s.startReports l (some src) = r
  have hf : r = { s with ring := r.ring, notices := r.notices } := by
    rw [← hr]; exact s.startReports_frame l _
  have hlane (k : LaneId) : r.lane k = s.lane k := by rw [← hr]; simp
  refine ⟨?_, fun k hk => ?_, ?_, fun st hst => ?_⟩
  · have h1 := (r.setLane l y).beginStep_frame l
    generalize ((r.setLane l y).beginStep l) = u at h1 ⊢
    rw [h1]
    show State.mk _ _ _ _ _ _ _ _ _ _ _ _ _ _ _ _ _ _ = State.mk _ _ _ _ _ _ _ _ _ _ _ _ _ _ _ _ _ _
    simp only [State.setLane]
    rw [hf]
  · rw [State.beginStep_other _ _ _ hk, State.lane_setLane_ne _ _ (Ne.symm hk), hlane]
  · constructor <;> rw [State.beginStep_frame] <;> rfl
  · have hs : (r.setLane l y).slot ((r.setLane l y).lane l).slotNumber = some st := by
      rw [State.lane_setLane_self, State.setLane_slot, ← hy]
      have : r.slot = s.slot := by rw [hf]; rfl
      rw [this]; exact hst
    rw [State.beginStep_some _ _ st hs, State.lane_setLane_self]
    have hn : (r.setLane l y).now = s.now := by rw [hf]; rfl
    rw [hn, ← hy]
    have hb := Lane.withStep_begins { s.lane l with
      state := .running, triggerArmed := false, position := Position.first,
      runSource := some src } st s.now
    refine ⟨rfl, hb, ?_⟩
    simp [Lane.withStep, Lane.sameProgram]

/-! ### The end of a run (R81, R82) -/

theorem State.endReports_eq (s : State) (l : LaneId) (r : Result) :
    (s.recordEnd l r).raiseLane .done l (.result r) = s.endReports l r := rfl

theorem State.endReports_frame (s : State) (l : LaneId) (r : Result) :
    s.endReports l r =
      { s with ring := (s.endReports l r).ring, notices := (s.endReports l r).notices } := by
  unfold State.endReports
  have h := (s.takeRecord_work (.laneEnd l r (s.lane l).passCount (s.lane l).faultCount)).frame
  simp only [State.takeRecord_refs, State.takeRecord_lanes] at h
  split
  · show State.setNotices _ _ = _
    rw [h]; rfl
  · rfl

@[simp] theorem State.endReports_lanes (s : State) (l : LaneId) (r : Result) :
    (s.endReports l r).lanes = s.lanes := by rw [s.endReports_frame]

@[simp] theorem State.endReports_refs (s : State) (l : LaneId) (r : Result) :
    (s.endReports l r).refs = s.refs := by rw [s.endReports_frame]

@[simp] theorem State.endReports_lane (s : State) (l k : LaneId) (r : Result) :
    (s.endReports l r).lane k = s.lane k := by simp [State.lane]

@[simp] theorem State.endReports_refCount (s : State) (l : LaneId) (r : Result) (p : Nat) :
    (s.endReports l r).refCount p = s.refCount p := by simp [State.refCount]

/-- The end's reports read of the lane its options and counts alone. -/
theorem State.endReports_setLane (s : State) (l : LaneId) (r : Result) (y : Lane)
    (ho : y.options = (s.lane l).options) (hp : y.passCount = (s.lane l).passCount)
    (hc : y.faultCount = (s.lane l).faultCount) :
    (s.setLane l y).endReports l r = (s.endReports l r).setLane l y := by
  unfold State.endReports
  simp only [State.lane_setLane_self, ho, hp, hc, State.takeRecord_setLane]
  split <;> rfl

theorem State.endRun_eq (s : State) (l : LaneId) (r : Result) :
    s.endRun l r =
      ((s.endReports l r).lowerRefs (s.lane l).segments).setLane l ((s.lane l).ended r) := by
  unfold State.endRun
  dsimp only
  rw [State.endReports_eq, State.endReports_lane]

theorem State.endRun_endsRun (s : State) (l : LaneId) (r : Result) :
    (s.endRun l r).endsRun s l r := by
  rw [s.endRun_eq]
  have hf := s.endReports_frame l r
  have hlane (k : LaneId) : (s.endReports l r).lane k = s.lane k := s.endReports_lane l k r
  have hc (p : Nat) : (s.endReports l r).refCount p = s.refCount p := s.endReports_refCount l r p
  unfold State.endsRun
  generalize s.endReports l r = e at *
  refine ⟨?_, fun k hk => ?_, ⟨rfl, rfl⟩, ?_, ?_, fun p hp => ?_⟩
  · show State.mk _ _ _ _ _ _ _ _ _ _ _ _ _ _ _ _ _ _ = State.mk _ _ _ _ _ _ _ _ _ _ _ _ _ _ _ _ _ _
    simp only [State.setLane, State.lowerRefs, State.setRefs]
    rw [hf]
  · rw [State.lane_setLane_ne _ _ (Ne.symm hk), State.lowerRefs_lane, hlane]
  · rw [State.lane_setLane_self]
    simp [Lane.endedAs, Lane.ended, Lane.stepless, Lane.noStep, Lane.sameProgram, Position.none]
  · rw [State.lane_setLane_self]; rfl
  · rw [State.setLane_refCount, State.refCount_lowerRefs _ _ _ hp, hc]

/-- An abort of a lane that is not IDLE ends its run (R82). -/
theorem State.abortLane_busy (s : State) (l : LaneId) (r : Result) (h : (s.lane l).state ≠ .idle) :
    s.abortLane l r = s.endRun l r := by
  unfold State.abortLane; rw [if_neg h]

theorem State.abortLane_idle (s : State) (l : LaneId) (r : Result) (h : (s.lane l).state = .idle) :
    s.abortLane l r = s := by
  unfold State.abortLane; rw [if_pos h]

/-! ### The end decision and the completion of an entry (R76 to R81) -/

theorem State.restartRun_goesOnAt (s : State) (l : LaneId) :
    (s.restartRun l).goesOnAt
      ((s.setLane l (s.lane l).restarted).startReports l
        (if (s.lane l).restartPending then some .request else (s.lane l).runSource))
      l { entry := 0, pass := 1, offset := 0 } := by
  have he : s.restartRun l =
      (((s.setLane l (s.lane l).restarted).startReports l
        (if (s.lane l).restartPending then some .request else (s.lane l).runSource)).setLane l
          { (s.lane l).restarted with position := Position.first }).goOnAt l Position.first := by
    unfold State.restartRun
    dsimp only
    rw [State.startReports_eq]
    have h2 := State.startReports_setLane (s.setLane l (s.lane l).restarted) l
      (if (s.lane l).restartPending then some .request else (s.lane l).runSource)
      { (s.lane l).restarted with position := Position.first }
      (by rw [State.lane_setLane_self]) (by rw [State.lane_setLane_self])
    rw [State.setLane_setLane] at h2
    exact congrArg (fun u => State.goOnAt u l Position.first) h2
  rw [he]
  generalize hr : (s.setLane l (s.lane l).restarted).startReports l
        (if (s.lane l).restartPending then some .request else (s.lane l).runSource) = r
  have hl : r.lane l = (s.lane l).restarted := by rw [← hr]; simp
  have h := State.goOnAt_goesOnAt
    (r.setLane l { (s.lane l).restarted with position := Position.first }) l Position.first
  generalize State.goOnAt _ l Position.first = t at h ⊢
  obtain ⟨h1, h2, h3, h4, h5⟩ := h
  simp only [State.lane_setLane_self] at h3 h4 h5
  refine ⟨h1, fun k hk => (h2 k hk).trans (State.lane_setLane_ne _ _ (Ne.symm hk)), ?_, ?_, ?_⟩
  · rw [hl]; exact h3
  · rw [hl]; exact h4
  · rw [hl]; exact h5

theorem State.endDecision_spec (s : State) (l : LaneId) :
    ((s.lane l).stopRequested = true → (s.endDecision l).endsRun s l .completed)
      ∧ ((s.lane l).stopRequested = false → (s.lane l).options.loop = false →
          (s.lane l).restartPending = false → (s.endDecision l).endsRun s l .completed)
      ∧ ((s.lane l).stopRequested = false →
          (s.lane l).options.loop = true ∨ (s.lane l).restartPending = true →
          s.endDecision l = s.restartRun l) := by
  unfold State.endDecision
  refine ⟨fun h => ?_, fun h h1 h2 => ?_, fun h h1 => ?_⟩
  · simp only [h, if_true]; exact s.endRun_endsRun l _
  · simp only [h, h1, h2, Bool.or_self, Bool.false_eq_true, if_false]
    exact s.endRun_endsRun l _
  · simp only [h, Bool.false_eq_true, if_false]
    rw [if_pos (by rcases h1 with h1 | h1 <;> simp [h1])]

theorem State.afterHalt_leavesEntry (s : State) (l : LaneId) :
    (s.afterHalt l).leavesEntry s l (s.lane l).position.entry := by
  have hd := s.endDecision_spec l
  unfold State.afterHalt
  refine ⟨fun h => ?_, fun h h1 => ?_, fun h h1 h2 h3 => ?_, fun h h1 h2 => ?_⟩
  · simp only [h, Bool.false_eq_true, if_false]
    exact State.goOnAt_goesOnAt _ _ _
  · simp only [h, if_true]; exact hd.1 h1
  · simp only [h, if_true]; exact hd.2.1 h1 h2 h3
  · simp only [h, if_true]; rw [hd.2.2 h1 h2]; exact s.restartRun_goesOnAt l

theorem State.deliverCue_cueDelivered (s : State) (l : LaneId) (i : Nat) :
    (s.deliverCue l i).cueDelivered s l ((s.lane l).entryAt i).cue := by
  unfold State.deliverCue State.cueDelivered
  cases ((s.lane l).entryAt i).cue with
  | none => rfl
  | some k =>
    dsimp only
    unfold State.startLane
    split
    · rw [if_pos (by assumption)]
      exact s.takeStart_spec k (.cue l)
    · rw [if_neg (by assumption)]

/-- A lane that is not ARMED keeps its own state when its cue is delivered. -/
theorem State.cueDelivered.lane_self {u s : State} {l : LaneId} {cue : Option LaneId}
    (h : u.cueDelivered s l cue) (hs : (s.lane l).state ≠ .armed) : u.lane l = s.lane l := by
  unfold State.cueDelivered at h
  split at h
  · rw [h]
  · split at h
    · rename_i k ha
      exact h.2.1 l (by rintro rfl; exact hs ha.1)
    · rw [h]

theorem State.complete_completesEntry (s : State) (l : LaneId)
    (hs : (s.lane l).state ≠ .armed) :
    (s.complete l).completesEntry s l (s.lane l).position.entry := by
  generalize hi : (s.lane l).position.entry = i
  have h1 : s.reportMark l i =
      if ((s.lane l).entryAt i).mark then s.raise (.lane .mark l) (.entryIndex i) else s := rfl
  have hl1 : (s.reportMark l i).lane l = s.lane l := by rw [h1]; split <;> rfl
  have hc := (s.reportMark l i).deliverCue_cueDelivered l i
  have hlc := hc.lane_self (by rw [hl1]; exact hs)
  rw [hl1] at hc hlc
  unfold State.complete
  simp only [hi]
  generalize (s.reportMark l i).deliverCue l i = cued at hc hlc ⊢
  have h3 : cued.passCheckpoint l i =
      if (s.lane l).options.checkpoint = some i then
        cued.raise (.lane .checkpointPassed l) (.count (s.lane l).passCount)
      else cued := by
    unfold State.passCheckpoint; rw [hlc]; rfl
  have hl2 : (cued.passCheckpoint l i).lane l = s.lane l := by rw [h3]; split <;> exact hlc
  rw [hl2]
  unfold State.completesEntry
  dsimp only
  rw [← h1]
  refine ⟨cued, hc, ?_⟩
  rw [← h3]
  refine ⟨fun h => ?_, fun h => ?_⟩
  · rw [if_pos h]
    exact State.haltLane_haltsAt _ _ _ _
  · rw [if_neg (by rw [h]; decide)]
    have := State.afterHalt_leavesEntry (cued.passCheckpoint l i) l
    rwa [hl2, hi] at this

/-! ### What reports read -/

theorem State.takeRecord_congr {s u : State} (b : RecordBody) (h : u.reportsAs s)
    (ht : u.timestamp = s.timestamp) : (u.takeRecord b).reportsAs (s.takeRecord b) := by
  obtain ⟨hr, hn⟩ := h
  have hu := u.takeRecord_cases b
  rw [hr, ht] at hu
  rcases s.takeRecord_cases b with ⟨h1, e⟩ | ⟨h1, h2, e⟩ | ⟨o, q, h1, h2, h3, e⟩
  · rcases hu with ⟨_, e'⟩ | ⟨h', _⟩ | ⟨_, _, h', _⟩
    · rw [e, e']
      dsimp only
      split
      · exact ⟨rfl, congrArg (fun n => NoticeSet.raise n _ _) hn⟩
      · exact ⟨rfl, hn⟩
    · omega
    · omega
  · rcases hu with ⟨h', _⟩ | ⟨_, _, e'⟩ | ⟨_, _, _, h', _⟩
    · omega
    · rw [e, e']; exact ⟨rfl, congrArg (fun n => NoticeSet.raise n _ _) hn⟩
    · rw [h2] at h'; cases h'
  · rcases hu with ⟨h', _⟩ | ⟨_, h', _⟩ | ⟨o', q', _, _, h3', e'⟩
    · omega
    · rw [h2] at h'; cases h'
    · rw [h3] at h3'; cases h3'
      rw [e, e']; exact ⟨rfl, congrArg (fun n => NoticeSet.raise n _ _) hn⟩

theorem State.raise_congr {s u : State} (k : NoticeKey) (d : NoticeDetail) (h : u.reportsAs s) :
    (u.raise k d).reportsAs (s.raise k d) := by
  obtain ⟨hr, hn⟩ := h
  exact ⟨hr, by rw [State.raise_notices, State.raise_notices, hn]⟩

/-- A start's reports read ring, notices, timestamp, and of the lane its options and pass count. -/
theorem State.startReports_congr {s u : State} {l : LaneId} (src : Option StartSource)
    (h : u.reportsAs s) (ht : u.timestamp = s.timestamp)
    (ho : (u.lane l).options = (s.lane l).options)
    (hp : (u.lane l).passCount = (s.lane l).passCount) :
    (u.startReports l src).reportsAs (s.startReports l src) := by
  unfold State.startReports
  dsimp only
  rw [ho, hp]
  split <;> split
  · exact State.raise_congr _ _ (State.takeRecord_congr _ h ht)
  · exact State.raise_congr _ _ h
  · exact State.takeRecord_congr _ h ht
  · exact h

/-- The end's reports read ring, notices, timestamp, and of the lane its options and counts. -/
theorem State.endReports_congr {s u : State} {l : LaneId} (r : Result)
    (h : u.reportsAs s) (ht : u.timestamp = s.timestamp)
    (ho : (u.lane l).options = (s.lane l).options)
    (hp : (u.lane l).passCount = (s.lane l).passCount)
    (hf : (u.lane l).faultCount = (s.lane l).faultCount) :
    (u.endReports l r).reportsAs (s.endReports l r) := by
  unfold State.endReports
  rw [ho, hp, hf]
  split
  · exact State.raise_congr _ _ (State.takeRecord_congr _ h ht)
  · exact State.raise_congr _ _ h

/-! ### What these results read of the lane -/

/-- Two lanes that a run's continuation cannot tell apart. -/
structure Lane.Alike (y x : Lane) : Prop where
  run : y.sameRun x
  state : y.state = x.state
  point : y.resumePoint = x.resumePoint
  pause : y.pausePending = x.pausePending
  drive : y.driveValue = x.driveValue

section

variable {s t : State} {l : LaneId} {y : Lane}

theorem Lane.Alike.entryAt {x : Lane} (h : y.Alike x) (i : Nat) : y.entryAt i = x.entryAt i := by
  unfold Lane.entryAt; rw [h.run.1.1]

theorem Lane.sameRun.trans {z x : Lane} (h : z.sameRun y) (g : y.sameRun x) : z.sameRun x := by
  obtain ⟨⟨a1, a2, a3, a4⟩, a5, a6, a7, a8, a9, a10, a11⟩ := h
  obtain ⟨⟨b1, b2, b3, b4⟩, b5, b6, b7, b8, b9, b10, b11⟩ := g
  exact ⟨⟨a1.trans b1, a2.trans b2, a3.trans b3, a4.trans b4⟩, a5.trans b5, a6.trans b6, a7.trans b7,
    a8.trans b8, a9.trans b9, a10.trans b10, a11.trans b11⟩

theorem State.goesOnAt_of_alike {p : Position} (h : y.Alike (s.lane l))
    (g : t.goesOnAt (s.setLane l y) l p) : t.goesOnAt s l p := by
  obtain ⟨h1, h2, h3, h4, h5⟩ := g
  simp only [State.lane_setLane_self, h.entryAt, h.state, h.point, h.pause, h.drive] at h3 h4 h5
  exact ⟨h1, fun k hk => (h2 k hk).trans (State.lane_setLane_ne _ _ (Ne.symm hk)), h3.trans h.run,
    h4, h5⟩

theorem State.haltsAt_of_alike {p : Position} {r : ResumePoint} (h : y.Alike (s.lane l))
    (g : t.haltsAt (s.setLane l y) l p r) : t.haltsAt s l p r := by
  obtain ⟨h1, h2, h3, h4⟩ := g
  simp only [State.lane_setLane_self, h.drive] at h3 h4
  exact ⟨h1, fun k hk => (h2 k hk).trans (State.lane_setLane_ne _ _ (Ne.symm hk)), h3.trans h.run,
    h4⟩

theorem State.endsRun_of_alike {r : Result} (h : y.Alike (s.lane l))
    (g : t.endsRun (s.setLane l y) l r) : t.endsRun s l r := by
  obtain ⟨h1, h2, h3, h4, h5, h6⟩ := g
  obtain ⟨hp, hc, hf, -⟩ := h.run
  rw [State.endReports_setLane s l r y hp.2.1 hc hf] at h3
  simp only [State.lane_setLane_self, hp.1] at h4 h5 h6
  obtain ⟨a1, a2, a3, a4, a5, a6, a7, a8, a9, a10, a11, a12⟩ := h4
  refine ⟨h1, fun k hk => (h2 k hk).trans (State.lane_setLane_ne _ _ (Ne.symm hk)), h3, ?_,
    h5.trans hf, h6⟩
  exact ⟨a1, a2, a3, a4, a5, a6, a7, a8, a9, a10,
    ⟨a11.1.trans hp.1, a11.2.1.trans hp.2.1, a11.2.2.1.trans hp.2.2.1, a11.2.2.2.trans hp.2.2.2⟩,
    a12.trans hc⟩

theorem State.leavesEntry_of_alike {i : Nat} (h : y.Alike (s.lane l))
    (g : t.leavesEntry (s.setLane l y) l i) : t.leavesEntry s l i := by
  obtain ⟨h1, h2, h3, h4⟩ := g
  obtain ⟨hp, hc, hf, hr, hrp, hst, hsrc, htr⟩ := h.run
  simp only [State.lane_setLane_self, State.setLane_setLane, h.entryAt, hp.2.1, hc, hrp, hst, hsrc]
    at h1 h2 h3 h4
  refine ⟨fun he => ?_, fun he hs => State.endsRun_of_alike h (h2 he hs),
    fun he hs hl hr => State.endsRun_of_alike h (h3 he hs hl hr), fun he hs hl => ?_⟩
  · have h1 := h1 he
    by_cases hcp : (s.lane l).options.checkpoint = some (i + 1)
    · rw [if_pos hcp] at h1 ⊢
      exact State.goesOnAt_of_alike (s := s.raise _ _) h h1
    · rw [if_neg hcp] at h1 ⊢
      exact State.goesOnAt_of_alike h h1
  · have h4 := h4 he hs hl
    have e1 : y.restarted.Alike (s.lane l).restarted := by
      refine ⟨⟨hp, ?_, hf, hr, rfl, hst, hsrc, htr⟩, h.state, h.point, h.pause, h.drive⟩
      simp only [Lane.restarted, hc]
    generalize (if (s.lane l).restartPending = true then some StartSource.request
      else (s.lane l).runSource) = src at h4 ⊢
    have e2 : (s.setLane l y.restarted).startReports l src =
        ((s.setLane l (s.lane l).restarted).startReports l src).setLane l y.restarted := by
      have := State.startReports_setLane (s.setLane l (s.lane l).restarted) l src y.restarted
        (by rw [State.lane_setLane_self]; exact e1.run.1.2.1)
        (by rw [State.lane_setLane_self]; exact e1.run.2.1)
      rwa [State.setLane_setLane] at this
    rw [e2] at h4
    refine State.goesOnAt_of_alike ?_ h4
    rw [State.startReports_lane, State.lane_setLane_self]
    exact e1

/-- The delivery of a cue reads nothing of the lane that gives it, unless it cues itself while ARMED. -/
theorem State.cueDelivered_of_alike {u : State} {cue : Option LaneId} (h : y.Alike (s.lane l))
    (hs : (s.lane l).state ≠ .armed) (g : u.cueDelivered (s.setLane l y) l cue) :
    u.lane l = y ∧ (u.setLane l (s.lane l)).cueDelivered s l cue := by
  have hu : u.lane l = y := by
    rw [g.lane_self (by rw [State.lane_setLane_self, h.state]; exact hs), State.lane_setLane_self]
  refine ⟨hu, ?_⟩
  unfold State.cueDelivered at g ⊢
  split at g
  · rw [g, State.setLane_setLane, State.setLane_lane_self]
  · rename_i k
    by_cases hk : k = l
    · subst hk
      rw [if_neg (fun hc => hs hc.1)]
      rw [State.lane_setLane_self, h.state, if_neg (fun hc => hs hc.1)] at g
      rw [g, State.setLane_setLane, State.setLane_lane_self]
    · have hlk : (s.setLane l y).lane k = s.lane k := State.lane_setLane_ne _ _ (Ne.symm hk)
      rw [hlk] at g
      split at g
      · rename_i ha
        rw [if_pos ha]
        obtain ⟨g1, g2, g3, g4⟩ := g
        refine ⟨?_, fun j hj => ?_, ?_, fun st hst => ?_⟩
        · generalize hlanes : u.lanes = a at g1
          generalize u.ring = b at g1 ⊢
          generalize u.notices = c at g1 ⊢
          rw [g1]; rfl
        · by_cases hjl : j = l
          · subst hjl; exact State.lane_setLane_self _ _ _
          · rw [State.lane_setLane_ne _ _ (Ne.symm hjl), g2 j hj,
              State.lane_setLane_ne _ _ (Ne.symm hjl)]
        · have hc := State.startReports_congr (s := s) (u := s.setLane l y) (l := k)
            (some (.cue l)) ⟨rfl, rfl⟩ rfl (by rw [hlk]) (by rw [hlk])
          exact ⟨g3.1.trans hc.1, g3.2.trans hc.2⟩
        · rw [State.lane_setLane_ne _ _ (Ne.symm hk)]
          exact g4 st hst
      · rename_i ha
        rw [if_neg ha, g, State.setLane_setLane, State.setLane_lane_self]

theorem State.completesEntry_of_alike {i : Nat} (h : y.Alike (s.lane l))
    (hs : (s.lane l).state ≠ .armed)
    (g : t.completesEntry (s.setLane l y) l i) : t.completesEntry s l i := by
  unfold State.completesEntry at g ⊢
  dsimp only at g ⊢
  simp only [State.lane_setLane_self, h.entryAt, h.run.1.2.1, h.run.2.1] at g
  obtain ⟨cued, g1, g2⟩ := g
  generalize hm : (if ((s.lane l).entryAt i).mark = true then
    s.raise (.lane .mark l) (.entryIndex i) else s) = m
  have hml : m.lane l = s.lane l := by rw [← hm]; split <;> rfl
  have hmark : (if ((s.lane l).entryAt i).mark = true then
      (s.setLane l y).raise (.lane .mark l) (.entryIndex i) else s.setLane l y) = m.setLane l y := by
    rw [← hm]; split <;> rfl
  rw [hmark] at g1
  have ha : y.Alike (m.lane l) := by rw [hml]; exact h
  obtain ⟨hcl, hcd⟩ := State.cueDelivered_of_alike ha (by rw [hml]; exact hs) g1
  rw [hml] at hcd
  refine ⟨_, hcd, ?_⟩
  have hback : (cued.setLane l (s.lane l)).setLane l y = cued := by
    rw [State.setLane_setLane, ← hcl, State.setLane_lane_self]
  have key : (if (s.lane l).options.checkpoint = some i then
        cued.raise (.lane .checkpointPassed l) (.count (s.lane l).passCount) else cued) =
      (if (s.lane l).options.checkpoint = some i then
        (cued.setLane l (s.lane l)).raise (.lane .checkpointPassed l) (.count (s.lane l).passCount)
      else cued.setLane l (s.lane l)).setLane l y := by
    generalize cued.setLane l (s.lane l) = c at hback ⊢
    rw [← hback]
    split <;> rfl
  rw [key] at g2
  have hl : (if (s.lane l).options.checkpoint = some i then
        (cued.setLane l (s.lane l)).raise (.lane .checkpointPassed l) (.count (s.lane l).passCount)
      else cued.setLane l (s.lane l)).lane l = s.lane l := by
    split <;> exact State.lane_setLane_self _ _ _
  generalize (if (s.lane l).options.checkpoint = some i then
        (cued.setLane l (s.lane l)).raise (.lane .checkpointPassed l) (.count (s.lane l).passCount)
      else cued.setLane l (s.lane l)) = v at *
  have hv : y.Alike (v.lane l) := by rw [hl]; exact h
  exact ⟨fun hh => State.haltsAt_of_alike hv (g2.1 hh),
    fun hh => State.leavesEntry_of_alike hv (g2.2 hh)⟩

end

/-! ### The end of a step (R68) -/

theorem State.endStep_endsStep (s : State) (l : LaneId) (hs : (s.lane l).state ≠ .armed) :
    (s.endStep l).endsStep s l := by
  have ha (p : Position) : ({ (s.lane l).noStep with position := p } : Lane).Alike (s.lane l) :=
    ⟨⟨⟨rfl, rfl, rfl, rfl⟩, rfl, rfl, rfl, rfl, rfl, rfl, rfl⟩, rfl, rfl, rfl, rfl⟩
  have hlt : ∀ a b : Nat, b ≤ a → ¬ a < b := fun _ _ h => Nat.not_lt.2 h
  unfold State.endStep
  dsimp only
  unfold State.endsStep
  dsimp only
  refine ⟨fun h => ?_, fun h1 h2 => ?_, fun h => ?_⟩
  · have hcomp : (s.lane l).atCompletion = false := by simp [Lane.atCompletion, h]
    have hn : (s.lane l).nextPosition =
        { (s.lane l).position with offset := (s.lane l).position.offset + 1 } := by
      simp [Lane.nextPosition, h]
    rw [hcomp, if_neg (by decide), hn]
    exact State.goesOnAt_of_alike (ha _) (State.goOnAt_goesOnAt _ _ _)
  · have hcomp : (s.lane l).atCompletion = false := by simp [Lane.atCompletion, h2]
    have hn : (s.lane l).nextPosition =
        { (s.lane l).position with pass := (s.lane l).position.pass + 1, offset := 0 } := by
      simp [Lane.nextPosition, h2, hlt _ _ h1]
    rw [hcomp, if_neg (by decide), hn]
    exact State.goesOnAt_of_alike (ha _) (State.goOnAt_goesOnAt _ _ _)
  · have hcomp : (s.lane l).atCompletion = true := by
      simp only [Lane.atCompletion, decide_eq_false (hlt _ _ h.1), decide_eq_false (hlt _ _ h.2)]
      rfl
    have hn : (s.lane l).nextPosition.entry = (s.lane l).position.entry := by
      unfold Lane.nextPosition; dsimp only; repeat' split
      all_goals rfl
    rw [hcomp, if_pos rfl]
    have ha' := ha (s.lane l).nextPosition
    have hq := State.complete_completesEntry
      (s.setLane l { (s.lane l).noStep with position := (s.lane l).nextPosition }) l
    rw [State.lane_setLane_self] at hq
    have hq := hq (by rw [ha'.state]; exact hs)
    dsimp only at hq
    rw [hn] at hq
    exact State.completesEntry_of_alike ha' hs hq

theorem State.endsStep_of_alike {s t : State} {l : LaneId} {y : Lane} (h : y.Alike (s.lane l))
    (hs : (s.lane l).state ≠ .armed) (hp : y.position = (s.lane l).position)
    (g : t.endsStep (s.setLane l y) l) :
    t.endsStep s l := by
  unfold State.endsStep Lane.endsEntry at g ⊢
  dsimp only at g ⊢
  simp only [State.lane_setLane_self, h.entryAt, hp] at g
  exact ⟨fun a => State.goesOnAt_of_alike h (g.1 a),
    fun a b => State.goesOnAt_of_alike h (g.2.1 a b),
    fun a => State.completesEntry_of_alike h hs (g.2.2 a)⟩

/-! ### A fault (R63 to R67) -/

/-- The position after a step, and whether it completes its entry, in the words of R68. -/
theorem Lane.nextPosition_eq (x : Lane) :
    x.nextPosition =
      (if x.position.offset + 1 < (x.entryAt x.position.entry).count then
        { x.position with offset := x.position.offset + 1 }
      else if x.position.pass < (x.entryAt x.position.entry).passes then
        { x.position with pass := x.position.pass + 1, offset := 0 }
      else { x.position with offset := (x.entryAt x.position.entry).count }) := rfl

theorem Lane.atCompletion_iff (x : Lane) : x.atCompletion = true ↔ x.endsEntry := by
  simp [Lane.atCompletion, Lane.endsEntry]

/-- The on-mismatch action HALT (R66). -/
theorem State.haltOnFault_haltsAt (s : State) (l : LaneId) :
    (s.haltOnFault l).haltsAt s l (s.lane l).nextPosition
      (if (s.lane l).endsEntry then .completion else .step) := by
  have := s.haltLane_haltsAt l (s.lane l).nextPosition
    (if (s.lane l).atCompletion then .completion else .step)
  unfold State.haltOnFault
  simp only [Lane.atCompletion_iff] at this ⊢
  exact this

theorem State.faultReports_lane_self (s : State) (l : LaneId) (b : RecordBody) :
    (s.faultReports l b).lane l =
      { s.lane l with checking := false, faultCount := saturate 65535 (s.lane l).faultCount } := by
  unfold State.faultReports; exact State.lane_setLane_self _ _ _

/-- A fault recorded at a lane that has left checking. -/
theorem State.recordFault_eq (s : State) (l : LaneId) (b : RecordBody) :
    (s.setLane l { s.lane l with checking := false }).recordFault l b = s.faultReports l b := by
  unfold State.recordFault State.faultReports
  dsimp only
  rw [State.takeRecord_setLane, State.lane_setLane_self]
  simp only [State.raiseLane_lane, State.lane_setLane_self]
  show (((s.takeRecord b).raise _ _).setLane l _).setLane l _ = _
  rw [State.setLane_setLane]

end Sys2Proof.Machine
end

