-- ==== Sys2Proof/Laws/OtherLanes.lean ====
section
/-!
SUPPORT. What the work of one lane leaves of the other lanes: everything, but that the cue of an entry that
completes may start its cued lane (R45).
-/

namespace Sys2Proof.Machine

variable (s : State) {l k : LaneId}

/-! ### Operations that leave every lane alone -/

@[simp] theorem State.reachCheckpoint_lanes (l : LaneId) (i : Nat) :
    (s.reachCheckpoint l i).lanes = s.lanes := by
  unfold State.reachCheckpoint; split <;> rfl

@[simp] theorem State.recordStart_lanes (l : LaneId) (src : Option StartSource) :
    (s.recordStart l src).lanes = s.lanes := by
  unfold State.recordStart; split <;> simp

@[simp] theorem State.recordEnd_lanes (l : LaneId) (r : Result) :
    (s.recordEnd l r).lanes = s.lanes := by
  unfold State.recordEnd; split <;> simp

@[simp] theorem State.reportMark_lanes (l : LaneId) (i : Nat) :
    (s.reportMark l i).lanes = s.lanes := by
  unfold State.reportMark; split <;> rfl

@[simp] theorem State.passCheckpoint_lanes (l : LaneId) (i : Nat) :
    (s.passCheckpoint l i).lanes = s.lanes := by
  unfold State.passCheckpoint; split <;> rfl

@[simp] theorem State.reachCheckpoint_lane (l k : LaneId) (i : Nat) :
    (s.reachCheckpoint l i).lane k = s.lane k := by simp [State.lane]

@[simp] theorem State.recordStart_lane (l k : LaneId) (src : Option StartSource) :
    (s.recordStart l src).lane k = s.lane k := by simp [State.lane]

@[simp] theorem State.recordEnd_lane (l k : LaneId) (r : Result) :
    (s.recordEnd l r).lane k = s.lane k := by simp [State.lane]

@[simp] theorem State.reportMark_lane (l k : LaneId) (i : Nat) :
    (s.reportMark l i).lane k = s.lane k := by simp [State.lane]

@[simp] theorem State.passCheckpoint_lane (l k : LaneId) (i : Nat) :
    (s.passCheckpoint l i).lane k = s.lane k := by simp [State.lane]

/-! ### A start -/

/-- The lane after a start was taken, whether its first slot is filled or not. -/
theorem State.takeStart_lane (l : LaneId) (src : StartSource) :
    (s.takeStart l src).lane l =
      match s.slot (s.lane l).firstSlot with
      | some st =>
        ({ s.lane l with
          state := .running, triggerArmed := false, position := Position.first,
          runSource := some src } : Lane).withStep st s.now
      | none =>
        ({ s.lane l with
          state := .running, triggerArmed := false, position := Position.first,
          runSource := some src } : Lane).noStep := by
  unfold State.takeStart
  rw [State.startReports_eq]
  generalize hy : ({ s.lane l with
      state := .running, triggerArmed := false, position := Position.first,
      runSource := some src } : Lane) = y
  generalize hr : (s.setLane l y).startReports l (some src) = r
  have hl : r.lane l = y := by rw [← hr]; simp
  have hs : r.slot (r.lane l).slotNumber = s.slot (s.lane l).firstSlot := by
    rw [hl, ← hr, State.startReports_frame, ← hy]; rfl
  have hn : r.now = s.now := by rw [← hr, State.startReports_frame]; rfl
  have hb := r.beginStep_lane l
  rw [hs, hl, hn] at hb
  rcases hb with ⟨st, h, e⟩ | ⟨h, e⟩
  · rw [h]; exact e
  · rw [h]; exact e

theorem State.startLane_other (src : StartSource) (h : k ≠ l) :
    (s.startLane l src).lane k = s.lane k := by
  unfold State.startLane
  split
  · exact (s.takeStart_spec l src).2.1 k h
  · rfl

/-- What a start leaves at its lane depends on that lane, the slots and the moment alone. -/
theorem State.startLane_lane_congr {u : State} (src : StartSource) (hl : u.lane l = s.lane l)
    (hs : u.slot = s.slot) (hn : u.now = s.now) :
    (u.startLane l src).lane l = (s.startLane l src).lane l := by
  unfold State.startLane
  rw [hl]
  split
  · rw [State.takeStart_lane, State.takeStart_lane, hl, hs, hn]
  · exact hl

/-! ### Operations that leave the other lanes alone -/

theorem State.haltLane_other (p : Position) (r : ResumePoint) (h : k ≠ l) :
    (s.haltLane l p r).lane k = s.lane k := (s.haltLane_haltsAt l p r).2.1 k h

theorem State.goOnAt_other (p : Position) (h : k ≠ l) :
    (s.goOnAt l p).lane k = s.lane k := (s.goOnAt_goesOnAt l p).2.1 k h

theorem State.endRun_other (r : Result) (h : k ≠ l) : (s.endRun l r).lane k = s.lane k :=
  (s.endRun_endsRun l r).2.1 k h

theorem State.abortLane_other (r : Result) (h : k ≠ l) : (s.abortLane l r).lane k = s.lane k := by
  unfold State.abortLane
  split
  · rfl
  · exact s.endRun_other r h

theorem State.restartRun_other (h : k ≠ l) : (s.restartRun l).lane k = s.lane k := by
  rw [(s.restartRun_goesOnAt l).2.1 k h, State.startReports_lane,
    State.lane_setLane_ne _ _ (Ne.symm h)]

theorem State.endDecision_other (h : k ≠ l) : (s.endDecision l).lane k = s.lane k := by
  unfold State.endDecision
  dsimp only
  repeat' split
  · exact s.endRun_other _ h
  · exact s.restartRun_other h
  · exact s.endRun_other _ h

theorem State.nextEntry_other (i : Nat) (h : k ≠ l) : (s.nextEntry l i).lane k = s.lane k := by
  unfold State.nextEntry
  rw [State.goOnAt_other _ _ h, State.reachCheckpoint_lane]

theorem State.afterHalt_other (h : k ≠ l) : (s.afterHalt l).lane k = s.lane k := by
  unfold State.afterHalt
  dsimp only
  split
  · exact s.endDecision_other h
  · exact s.nextEntry_other _ h

theorem State.haltOnFault_other (h : k ≠ l) : (s.haltOnFault l).lane k = s.lane k :=
  s.haltLane_other _ _ h

theorem State.recordFault_other (b : RecordBody) (h : k ≠ l) :
    (s.recordFault l b).lane k = s.lane k := by
  unfold State.recordFault
  dsimp only
  rw [State.lane_setLane_ne _ _ (Ne.symm h), State.raiseLane_lane, State.takeRecord_lane]

theorem State.askPause_other (h : k ≠ l) : (s.askPause l).lane k = s.lane k := by
  unfold State.askPause
  split
  · exact State.lane_setLane_ne _ _ (Ne.symm h)
  · rfl

theorem State.laneAction_other (w : WatchId) (a : LaneAction) (h : k ≠ l) :
    (s.laneAction w l a).lane k = s.lane k := by
  cases a
  · exact s.startLane_other _ h
  · exact s.askPause_other h
  · exact s.abortLane_other _ h

/-! ### Operations that may complete an entry -/

/-- Lane `k` is as it was, or the cue of lane `l` has reached it. -/
def State.Bystander (s t : State) (l k : LaneId) : Prop :=
  t.lane k = s.lane k ∨ t.lane k = (s.startLane k (.cue l)).lane k

theorem State.Bystander.of_eq {t : State} (h : t.lane k = s.lane k) : s.Bystander t l k := .inl h

theorem State.deliverCue_bystander (l k : LaneId) (i : Nat) :
    s.Bystander (s.deliverCue l i) l k := by
  unfold State.deliverCue
  split
  · rename_i target _
    by_cases hk : k = target
    · subst hk; exact .inr rfl
    · exact .inl (s.startLane_other _ hk)
  · exact .inl rfl

/-- Work of lane `l` before and after leaves a bystander one. -/
theorem State.Bystander.after_work {s u t : State} (h : u.Bystander t l k) (hw : LaneWork s u)
    (hk : u.lane k = s.lane k) : s.Bystander t l k := by
  rcases h with h | h
  · exact .inl (h.trans hk)
  · refine .inr (h.trans (State.startLane_lane_congr s _ hk (funext hw.slot) hw.now))

theorem State.Bystander.before_eq {s u t : State} (h : s.Bystander u l k)
    (hk : t.lane k = u.lane k) : s.Bystander t l k :=
  h.imp hk.trans hk.trans

theorem State.complete_bystander (h : k ≠ l) : s.Bystander (s.complete l) l k := by
  have hb (i : Nat) : s.Bystander (((s.reportMark l i).deliverCue l i).passCheckpoint l i) l k :=
    (((s.reportMark l i).deliverCue_bystander l k i).before_eq (by simp)).after_work
      (s.reportMark_work l i) (by simp)
  unfold State.complete
  dsimp only
  split
  · exact (hb _).before_eq (State.haltLane_other _ _ _ h)
  · exact (hb _).before_eq (State.afterHalt_other _ h)

theorem State.endStep_bystander (h : k ≠ l) : s.Bystander (s.endStep l) l k := by
  unfold State.endStep
  dsimp only
  split
  · exact (State.complete_bystander _ h).after_work (s.setLane_work _ _)
      (State.lane_setLane_ne _ _ (Ne.symm h))
  · exact .inl ((State.goOnAt_other _ _ h).trans (State.lane_setLane_ne _ _ (Ne.symm h)))

theorem State.act_bystander (m : Mismatch) (f : State → State) (h : k ≠ l)
    (hf : s.Bystander (f s) l k) : s.Bystander (s.act l m f) l k := by
  unfold State.act
  split
  · exact hf
  · exact .inl (s.haltOnFault_other h)
  · exact .inl (s.abortLane_other _ h)

theorem State.holdExpires_bystander (st : StepRecord) (h : k ≠ l) :
    s.Bystander (s.holdExpires l st) l k := by
  unfold State.holdExpires
  dsimp only
  split
  · exact (State.act_bystander _ _ _ h (State.endStep_bystander _ h)).after_work
      (s.recordFault_work _ _) (s.recordFault_other _ h)
  · exact s.endStep_bystander h

theorem State.limitExpires_bystander (st : StepRecord) (h : k ≠ l) :
    s.Bystander (s.limitExpires l st) l k := by
  unfold State.limitExpires
  dsimp only
  exact (State.act_bystander _ _ _ h (State.endStep_bystander _ h)).after_work
    ((s.setLane_work _ _).trans (State.recordFault_work _ _ _))
    ((State.recordFault_other _ _ h).trans (State.lane_setLane_ne _ _ (Ne.symm h)))

theorem State.compareAt_bystander (st : StepRecord) (v : Lines) (h : k ≠ l) :
    s.Bystander (s.compareAt l st v) l k := by
  unfold State.compareAt
  dsimp only
  repeat' split
  · exact .inl (State.lane_setLane_ne _ _ (Ne.symm h))
  · exact (State.act_bystander _ _ _ h (.inl rfl)).after_work
      ((s.setLane_work _ _).trans (State.recordFault_work _ _ _))
      ((State.recordFault_other _ _ h).trans (State.lane_setLane_ne _ _ (Ne.symm h)))
  · exact s.endStep_bystander h
  · exact .inl (State.lane_setLane_ne _ _ (Ne.symm h))
  · exact .inl rfl
  · exact .inl rfl

theorem State.resumeLane_bystander (h : k ≠ l) : s.Bystander (s.resumeLane l) l k := by
  unfold State.resumeLane
  dsimp only
  split
  · exact .inl ((State.beginStep_other _ _ _ h).trans (State.lane_setLane_ne _ _ (Ne.symm h)))
  · exact .inl ((State.beginStep_other _ _ _ h).trans (State.lane_setLane_ne _ _ (Ne.symm h)))
  · exact (State.complete_bystander _ h).after_work (s.setLane_work _ _)
      (State.lane_setLane_ne _ _ (Ne.symm h))
  · exact .inl ((State.afterHalt_other _ h).trans (State.lane_setLane_ne _ _ (Ne.symm h)))

/-- A bystander that was not checking is not checking now. -/
theorem State.Bystander.checking {s t : State} (h : s.Bystander t l k)
    (hc : (s.lane k).checking = false) : (t.lane k).checking = false := by
  rcases h with h | h
  · rw [h]; exact hc
  · rw [h]
    unfold State.startLane
    split
    · rw [State.takeStart_lane]
      split <;> rfl
    · exact hc

end Sys2Proof.Machine
end

