-- ==== Sys2Proof/Laws/ChangeEvents.lean ====
section
/-!
SUPPORT. A change event: every receiver takes it once, whatever the order (R23); a watch that is not enabled
and a lane that is not checking take it without effect; and what an event does when one receiver alone acts.
-/

namespace Sys2Proof.Machine

/-! ### The order of delivery -/

theorem deliveryOrder_nodup (order : List Receiver) : (deliveryOrder order).Nodup := by
  have hn : ∀ (o acc : List Receiver), acc.Nodup →
      (o.foldl (fun acc r => if acc.contains r then acc else acc ++ [r]) acc).Nodup := by
    intro o
    induction o with
    | nil => exact fun _ h => h
    | cons a as ih =>
      intro acc h
      rw [List.foldl_cons]
      apply ih
      split
      · exact h
      · rename_i hc
        refine List.nodup_append.2 ⟨h, List.nodup_singleton _, fun x hx y hy => ?_⟩
        rintro rfl
        exact hc (by simpa [List.mem_singleton.1 hy] using hx)
  unfold deliveryOrder
  refine List.nodup_append.2 ⟨hn order [] List.nodup_nil, List.Nodup.filter _ (by decide), ?_⟩
  rintro a ha b hb rfl
  have := (List.mem_filter.1 hb).2
  simp only [Bool.not_eq_true'] at this
  rw [← Bool.not_eq_true] at this
  exact this (List.contains_iff_mem.2 ha)

theorem mem_deliveryOrder (order : List Receiver) (r : Receiver) : r ∈ deliveryOrder order := by
  unfold deliveryOrder
  dsimp only
  generalize order.foldl _ _ = named
  rw [List.mem_append, List.mem_filter]
  by_cases h : r ∈ named
  · exact .inl h
  · refine .inr ⟨?_, by simpa using h⟩
    cases r with
    | watchUnit => exact List.mem_cons_self ..
    | lane l => fin_cases l <;> decide

/-! ### Receivers without effect -/

theorem State.evaluateWatch_quiet (s : State) (p v : Lines) (w : WatchId)
    (h : (s.watch w).state ≠ .enabled) : s.evaluateWatch p v w = s := by
  unfold State.evaluateWatch
  split
  · contradiction
  · rfl

theorem State.evaluateWatches_quiet (s : State) (p v : Lines)
    (h : ∀ w, (s.watch w).state ≠ .enabled) : s.evaluateWatches p v = s := by
  have hf : ∀ ws : List WatchId, ws.foldl (fun s w => s.evaluateWatch p v w) s = s := by
    intro ws
    induction ws with
    | nil => rfl
    | cons w ws ih => rw [List.foldl_cons, s.evaluateWatch_quiet p v w (h w), ih]
  exact hf _

theorem State.laneTakesChange_quiet (s : State) (v : Lines) (l : LaneId)
    (h : (s.lane l).checking = false) : s.laneTakesChange v l = s := by
  unfold State.laneTakesChange
  split
  · rename_i hc _; rw [h] at hc; cases hc
  · rfl

/-- Receivers none of which acts. -/
theorem State.receivers_quiet (s : State) (p v : Lines) (rs : List Receiver)
    (h : ∀ r ∈ rs, s.receiverTakes p v r = s) :
    rs.foldl (fun t r => t.receiverTakes p v r) s = s := by
  induction rs with
  | nil => rfl
  | cons r rs ih =>
    rw [List.foldl_cons, h r (List.mem_cons_self ..)]
    exact ih fun q hq => h q (List.mem_cons_of_mem _ hq)

/-! ### Events for one receiver -/

/-- A sample delivered with no receiver that acts (R22, R23). -/
theorem State.deliverSample_quiet (s : State) (v : Lines) (order : List Receiver)
    (hw : ∀ w, (s.watch w).state ≠ .enabled) (hl : ∀ l, (s.lane l).checking = false) :
    s.deliverSample v order = { s with sampled := v } := by
  unfold State.deliverSample
  refine State.receivers_quiet _ _ _ _ fun r _ => ?_
  cases r with
  | watchUnit => exact State.evaluateWatches_quiet _ _ _ hw
  | lane l => exact State.laneTakesChange_quiet _ _ _ (hl l)

/-- A sample delivered with one checking lane and no enabled watch (R62). -/
theorem State.deliverSample_lane (s : State) (v : Lines) (order : List Receiver) (l : LaneId)
    (hw : ∀ w, (s.watch w).state ≠ .enabled)
    (hl : ∀ k, k ≠ l → (s.lane k).checking = false) :
    s.deliverSample v order = State.laneTakesChange { s with sampled := v } v l := by
  unfold State.deliverSample
  obtain ⟨as, bs, hab⟩ := List.append_of_mem (mem_deliveryOrder order (.lane l))
  have hn := deliveryOrder_nodup order
  rw [hab] at hn ⊢
  have hn := List.nodup_append.1 hn
  have ha : Receiver.lane l ∉ as := fun h => hn.2.2 _ h _ (List.mem_cons_self ..) rfl
  have hb : Receiver.lane l ∉ bs := (List.nodup_cons.1 hn.2.1).1
  rw [List.foldl_append, List.foldl_cons]
  have hq (t : State) (htw : ∀ w, (t.watch w).state ≠ .enabled)
      (htl : ∀ k, k ≠ l → (t.lane k).checking = false) (rs : List Receiver)
      (hr : Receiver.lane l ∉ rs) :
      rs.foldl (fun t r => t.receiverTakes s.sampled v r) t = t := by
    refine State.receivers_quiet _ _ _ _ fun r hm => ?_
    cases r with
    | watchUnit => exact State.evaluateWatches_quiet _ _ _ htw
    | lane k =>
      exact State.laneTakesChange_quiet _ _ _ (htl k (by rintro rfl; exact hr hm))
  rw [hq { s with sampled := v } hw hl as ha]
  refine hq _ (fun w => ?_) (fun k hk => ?_) bs hb
  · have := LaneWork.watch (State.laneTakesChange_work { s with sampled := v } v l) w
    exact fun hc => hw w (by rw [← hc]; exact (congrArg Watch.state this).symm)
  · show ((State.laneTakesChange { s with sampled := v } v l).lane k).checking = false
    unfold State.laneTakesChange
    split
    · exact State.Bystander.checking (State.compareAt_bystander _ _ _ hk) (hl k hk)
    · exact hl k hk

/-! ### Watches -/

theorem State.watchHit_other (s : State) (w k : WatchId) (d : WatchDef) (p v : Lines) (h : k ≠ w) :
    (s.watchHit w d p v).watch k = s.watch k := by
  unfold State.watchHit
  dsimp only
  rw [State.watch_setWatch_ne _ _ (Ne.symm h)]
  have h3 : ∀ u : State, u.watch k = s.watch k →
      (match d.laneAction with | some (l, a) => u.laneAction w l a | none => u).watch k
        = s.watch k := by
    intro u hu
    split
    · rw [LaneWork.watch (State.laneAction_work _ _ _ _), hu]
    · exact hu
  apply h3
  split <;> split <;> simp [State.watch_setWatch_ne _ _ (Ne.symm h)]

/-- The watch unit takes an event with one enabled watch (R101, R102, R107). -/
theorem State.evaluateWatches_one (s : State) (p v : Lines) (w : WatchId)
    (h : ∀ k, k ≠ w → (s.watch k).state ≠ .enabled) :
    s.evaluateWatches p v = s.evaluateWatch p v w := by
  have hq : ∀ (ws : List WatchId) (t : State), w ∉ ws →
      (∀ k, k ≠ w → (t.watch k).state ≠ .enabled) →
      ws.foldl (fun s w => s.evaluateWatch p v w) t = t := by
    intro ws
    induction ws with
    | nil => exact fun _ _ _ => rfl
    | cons k ks ih =>
      intro t hm ht
      rw [List.foldl_cons, t.evaluateWatch_quiet p v k
        (ht k (by rintro rfl; exact hm (List.mem_cons_self ..)))]
      exact ih t (fun hk => hm (List.mem_cons_of_mem _ hk)) ht
  have hafter : ∀ k, k ≠ w → ((s.evaluateWatch p v w).watch k).state ≠ .enabled := by
    intro k hk
    unfold State.evaluateWatch
    split
    · split
      · rw [s.watchHit_other w k _ p v hk]; exact h k hk
      · exact h k hk
    · exact h k hk
  have hm : w ∈ watchIds := by fin_cases w <;> decide
  obtain ⟨as, bs, hab⟩ := List.append_of_mem hm
  have hn : watchIds.Nodup := by decide
  unfold State.evaluateWatches
  rw [hab] at hn ⊢
  have hn := List.nodup_append.1 hn
  rw [List.foldl_append, List.foldl_cons,
    hq as s (fun hm => hn.2.2 _ hm _ (List.mem_cons_self ..) rfl) h]
  exact hq bs _ (List.nodup_cons.1 hn.2.1).1 hafter

/-- What a watch's work can change. -/
structure WatchWork (s t : State) : Prop where
  frame : t = { s with
    refs := t.refs, lanes := t.lanes, watches := t.watches, ring := t.ring, notices := t.notices }
  notices : ∀ P : NoticeSet → Prop, (∀ n k d, P n → P (n.raise k d)) → P s.notices → P t.notices
  fill : s.ring.records.length ≤ 512 → t.ring.records.length ≤ 512
  threshold : t.ring.threshold = s.ring.threshold
  policy : t.ring.policy = s.ring.policy

theorem LaneWork.watchWork {s t : State} (h : LaneWork s t) : WatchWork s t where
  frame := by
    have hw := h.watches
    have hf := h.frame
    generalize t.refs = a at hf ⊢
    generalize t.lanes = b at hf ⊢
    generalize t.ring = c at hf ⊢
    generalize t.notices = d at hf ⊢
    rw [hw]; exact hf
  notices := h.notices
  fill := h.fill
  threshold := h.threshold
  policy := h.policy

theorem WatchWork.trans {s t u : State} (h : WatchWork s t) (g : WatchWork t u) : WatchWork s u where
  frame := by
    have h1 := h.frame
    have g1 := g.frame
    generalize u.refs = a at g1 ⊢
    generalize u.lanes = b at g1 ⊢
    generalize u.ring = c at g1 ⊢
    generalize u.notices = d at g1 ⊢
    generalize u.watches = e at g1 ⊢
    rw [g1, h1]
  notices P hP hs := g.notices P hP (h.notices P hP hs)
  fill hs := g.fill (h.fill hs)
  threshold := g.threshold.trans h.threshold
  policy := g.policy.trans h.policy

theorem State.setWatch_work (s : State) (w : WatchId) (x : Watch) : WatchWork s (s.setWatch w x) :=
  ⟨rfl, fun _ _ h => h, id, rfl, rfl⟩

theorem State.watchHit_work (s : State) (w : WatchId) (d : WatchDef) (p v : Lines) :
    WatchWork s (s.watchHit w d p v) := by
  unfold State.watchHit
  dsimp only
  refine WatchWork.trans ?_ (State.setWatch_work _ _ _)
  refine (State.setWatch_work s w
    { s.watch w with hits := saturate 65535 (s.watch w).hits }).trans (LaneWork.watchWork ?_)
  have h1 (u : State) : LaneWork u
      (if d.record = true then u.takeRecord (.watchHit w v (p ^^^ v)) else u) := by
    split
    · exact u.takeRecord_work _
    · exact .refl u
  have h2 (u : State) (n : Nat) : LaneWork u
      (if d.notify = true then u.raise (.watchHit w) (.count n) else u) := by
    split
    · exact u.raise_work _ _
    · exact .refl u
  have h3 (u : State) : LaneWork u
      (match d.laneAction with | some (l, a) => u.laneAction w l a | none => u) := by
    split
    · exact u.laneAction_work _ _ _
    · exact .refl u
  exact ((h1 _).trans (h2 _ _)).trans (h3 _)

theorem State.evaluateWatch_work (s : State) (p v : Lines) (w : WatchId) :
    WatchWork s (s.evaluateWatch p v w) := by
  unfold State.evaluateWatch
  split
  · split
    · exact s.watchHit_work _ _ _ _
    · exact (LaneWork.refl s).watchWork
  · exact (LaneWork.refl s).watchWork

theorem State.receiverTakes_work (s : State) (p v : Lines) (r : Receiver) :
    WatchWork s (s.receiverTakes p v r) := by
  cases r with
  | watchUnit =>
    have hf : ∀ (ws : List WatchId) (t : State),
        WatchWork t (ws.foldl (fun s w => s.evaluateWatch p v w) t) := by
      intro ws
      induction ws with
      | nil => exact fun t => (LaneWork.refl t).watchWork
      | cons w ws ih => exact fun t => (t.evaluateWatch_work p v w).trans (ih _)
    exact hf _ s
  | lane l => exact (s.laneTakesChange_work v l).watchWork

/-- What a sample that is delivered can change. -/
theorem State.deliverSample_work (s : State) (v : Lines) (order : List Receiver) :
    WatchWork { s with sampled := v } (s.deliverSample v order) := by
  unfold State.deliverSample
  generalize deliveryOrder order = rs
  generalize ({ s with sampled := v } : State) = t
  induction rs generalizing t with
  | nil => exact (LaneWork.refl t).watchWork
  | cons r rs ih => exact (t.receiverTakes_work _ _ r).trans (ih _)

/-! ### The sampler (R22) -/

/-- In a microsecond whose sample has been taken the sampler does nothing. -/
theorem State.takeSample_taken (s : State) (order : List Receiver) (h : s.sampleAt = s.now) :
    s.takeSample order = s := if_pos h

/-- A sample equal to the sampled state makes no event. -/
theorem State.takeSample_same (s : State) (order : List Receiver) (h : s.sampleAt ≠ s.now)
    (hv : s.lineLevels = s.sampled) : s.takeSample order = { s with sampleAt := s.now } := by
  unfold State.takeSample
  rw [if_neg h, if_pos hv]

/-- Any other sample is delivered. -/
theorem State.takeSample_change (s : State) (order : List Receiver) (h : s.sampleAt ≠ s.now)
    (hv : s.lineLevels ≠ s.sampled) :
    s.takeSample order =
      State.deliverSample { s with sampleAt := s.now } s.lineLevels order := by
  unfold State.takeSample
  rw [if_neg h, if_neg hv]

end Sys2Proof.Machine
end

