-- ==== Sys2Proof/Laws/Decoder.lean ====
section
/-!
SUPPORT. The decoder's step on the frame at the head of the queue, once for every request (R148 to R152):
what a proof about one request cites in place of unfolding the decoder.
-/

namespace Sys2Proof.Machine

variable {s : State} {f : Frame} {rest : List Frame} {r : Request} {h : Handler}

/-- The repeat test of a unicast frame, in the two forms the model and the statements use. -/
theorem Link.repeatedReply_eq_none (k : Link) (f : Frame) (hu : f.addressing = .unicast)
    (hr : k.isRepeat f = false) : k.repeatedReply f = none := by
  unfold Link.repeatedReply
  unfold Link.isRepeat at hr
  rw [hu] at hr
  cases hs : k.unicastStore with
  | none => rfl
  | some x =>
    simp only [hs] at hr ⊢
    rw [if_neg]
    rintro ⟨a, b, c⟩
    simp only [← b, ← c, beq_self_eq_true, Bool.and_self, Bool.and_true, bne_eq_false_iff_eq] at hr
    exact a hr

/-- The repeat test of a group or broadcast frame. -/
theorem Link.repeatsGroup_eq_isRepeat (k : Link) (f : Frame) (hu : f.addressing ≠ .unicast) :
    k.repeatsGroup f = k.isRepeat f := by
  unfold Link.repeatsGroup Link.isRepeat
  cases ha : f.addressing with
  | unicast => exact absurd ha hu
  | group g => simp only [bne, beq_eq_decide, decide_not]
  | broadcast => simp only [bne, beq_eq_decide, decide_not]

theorem Link.nextFrame_of_atHead (ha : s.atHead f rest) : s.link.nextFrame = some (f, rest) := by
  simp [Link.nextFrame, ha.2.1, ha.2.2]

/-- A frame of the request's kind at the head of the queue is taken. -/
theorem decoderStep_atHead (ha : s.atHead f rest) (hk : f.kind = r.code) :
    decoderStep r h s = (s.popInbound rest).takeFrame r h f := by
  simp [decoderStep, State.outsideReset, ha.1, Link.nextFrame_of_atHead ha, hk]

/-- A unicast frame that is executed: the handler's state and payload, answered. -/
theorem decoderStep_unicast (he : s.executes r f rest) (hu : f.addressing = .unicast) :
    decoderStep r h s =
      ((h f (s.popInbound rest)).1).answer f (decide (r = .restart))
        (h f (s.popInbound rest)).2 := by
  obtain ⟨ha, hk, hr, _, hl⟩ := he
  have hn : (s.popInbound rest).link.repeatedReply f = none := by
    have := Link.repeatedReply_eq_none s.link f hu hr
    simpa [State.popInbound, Link.repeatedReply] using this
  rw [decoderStep_atHead ha hk]
  simp [State.takeFrame, State.takeUnicast, hu, hn, hl]

/-- A group or broadcast frame that is executed: the handler's state, TAG and KIND stored. -/
theorem decoderStep_group (he : s.executes r f rest) (hu : f.addressing ≠ .unicast) :
    decoderStep r h s = ((h f (s.popInbound rest)).1).storeGroup f := by
  obtain ⟨ha, hk, hr, hg, hl⟩ := he
  have hg : r.groupAllowed = true := hg.resolve_left hu
  have hn : (s.popInbound rest).link.repeatsGroup f = false := by
    have := (Link.repeatsGroup_eq_isRepeat s.link f hu).trans hr
    exact this
  rw [decoderStep_atHead ha hk]
  unfold State.takeFrame
  cases hadd : f.addressing with
  | unicast => exact absurd hadd hu
  | group g => simp [State.takeGroup, hn, hg, hl]
  | broadcast => simp [State.takeGroup, hn, hg, hl]

/-- The frame of a request that groups may not carry is unicast. -/
theorem State.executes.unicast (he : s.executes r f rest) (hg : r.groupAllowed = false) :
    f.addressing = .unicast :=
  he.2.2.2.1.resolve_right (by simp [hg])

/-- One execution, whichever way it is addressed: a handler that leaves the state `t` with the queue's rest
and the payload `p` concludes so. -/
theorem decoderStep_executes {t : State} {p : List Byte} (he : s.executes r f rest)
    (hr : r ≠ .restart) (ht : h f (s.popInbound rest) = (t, p)) (hq : t.link.inbound = rest) :
    decoderStep r h s = t.concluded f rest p := by
  cases hadd : f.addressing with
  | unicast =>
    rw [decoderStep_unicast he hadd, ht]
    simp [State.concluded, hadd, State.answer, State.answered, replyTo, State.setLink, ← hq, hr]
  | group g =>
    rw [decoderStep_group he (by simp [hadd]), ht]
    simp [State.concluded, hadd, State.storeGroup, State.setLink, ← hq]
  | broadcast =>
    rw [decoderStep_group he (by simp [hadd]), ht]
    simp [State.concluded, hadd, State.storeGroup, State.setLink, ← hq]

/-- The same for a request that is unicast alone. -/
theorem decoderStep_answered {t : State} {p : List Byte} (he : s.executes r f rest)
    (hg : r.groupAllowed = false) (ht : h f (s.popInbound rest) = (t, p))
    (hq : t.link.inbound = rest) :
    decoderStep r h s = t.answered f rest (decide (r = .restart)) p := by
  have hadd := State.executes.unicast he hg
  rw [decoderStep_unicast he hadd, ht]
  simp [State.answer, State.answered, replyTo, State.setLink, ← hq]

/-- Whatever the queue's rest was, a concluded or answered state has the rest given. -/
@[simp] theorem State.popInbound_answered (t : State) (f : Frame) (q rest : List Frame) (b : Bool)
    (p : List Byte) : (t.popInbound q).answered f rest b p = t.answered f rest b p := rfl

@[simp] theorem State.popInbound_concluded (t : State) (f : Frame) (q rest : List Frame)
    (p : List Byte) : (t.popInbound q).concluded f rest p = t.concluded f rest p := by
  unfold State.concluded; split <;> rfl

/-! ### Lane and watch bytes -/

theorem laneOf_eq_none (b : Byte) : laneOf b = none ↔ 3 < b.toNat := by
  unfold laneOf; split <;> simp <;> omega

theorem laneOf_eq_some (b : Byte) (l : LaneId) : laneOf b = some l ↔ b.toNat = l.val := by
  unfold laneOf; split
  · simp [Fin.ext_iff]
  · simp; omega

theorem watchOf_eq_none (b : Byte) : watchOf b = none ↔ 7 < b.toNat := by
  unfold watchOf; split <;> simp <;> omega

theorem watchOf_eq_some (b : Byte) (w : WatchId) : watchOf b = some w ↔ b.toNat = w.val := by
  unfold watchOf; split
  · simp [Fin.ext_iff]
  · simp; omega

end Sys2Proof.Machine
end

