-- ==== Sys2Proof/Laws/LaneSets.lean ====
section
/-!
SUPPORT. Work on several lanes in lane order: a lane-set request lane by lane (R83), and several starts or
ends in a row, each with its reports (R84, R90, R165, R168).
-/

namespace Sys2Proof.Machine

/-! ### A lane-set request (R83) -/

/-- A lane-set request whose outcome at a lane, and whose effect at it, no earlier lane of the set
changes. -/
theorem laneSet_foldl (set : Byte) (act : LaneAct) (outcome : Lane → LaneOutcome)
    (ho : ∀ s l, (act l s).2 = outcome (s.lane l))
    (hk : ∀ s l k, k ≠ l → ((act l s).1).lane k = s.lane k)
    (ls : List LaneId) (hn : ls.Nodup) (s : State) (acc : List Byte) :
    ls.foldl (laneSetStep set act) (s, acc) =
      (ls.foldl (fun s l => if set.getLsbD l.val then (act l s).1 else s) s,
       acc ++ ls.map fun l =>
        if set.getLsbD l.val then (outcome (s.lane l)).code else LaneOutcome.notNamed.code) := by
  induction ls generalizing s acc with
  | nil => simp
  | cons l ls ih =>
    have hl := List.nodup_cons.1 hn
    have hm (t : State) (ht : ∀ k, k ≠ l → t.lane k = s.lane k) :
        (ls.map fun l =>
          if set.getLsbD l.val then (outcome (t.lane l)).code else LaneOutcome.notNamed.code) =
        ls.map fun l =>
          if set.getLsbD l.val then (outcome (s.lane l)).code else LaneOutcome.notNamed.code := by
      refine List.map_congr_left fun k hk' => ?_
      rw [ht k (by rintro rfl; exact hl.1 hk')]
    rw [List.foldl_cons, List.foldl_cons, List.map_cons]
    unfold laneSetStep
    by_cases h : set.getLsbD l.val = true
    · simp only [h, if_true]
      have := ih hl.2 (act l s).1 (acc ++ [((act l s).2).code])
      unfold laneSetStep at this
      rw [this, hm _ fun k hk' => hk s l k hk', ho]
      simp
    · simp only [h, if_false, Bool.false_eq_true]
      have := ih hl.2 s (acc ++ [LaneOutcome.notNamed.code])
      unfold laneSetStep at this
      rw [this]
      simp

/-! ### Several starts or ends in a row -/

/-- What lane `l` is after its turn, and how the reports grow: the pattern of every fold over lanes. `turn`
works on lane `l`, reads of the other lanes nothing, and reports as `report` does. -/
theorem lanes_foldl (turn : LaneId → State → State) (reports : LaneId → Lane → Bool)
    (report : State → LaneId → State) (after : State → State → LaneId → Prop)
    (base : State)
    (hf : ∀ s l, LaneWork s (turn l s))
    (hk : ∀ s l k, k ≠ l → (turn l s).lane k = s.lane k)
    (hr : ∀ s u l, s.timestamp = base.timestamp → u.timestamp = base.timestamp →
      u.lane l = base.lane l → s.lane l = base.lane l → s.reportsAs u →
      reports l (base.lane l) = true → (turn l s).reportsAs (report u l))
    (hq : ∀ s l, s.lane l = base.lane l → reports l (base.lane l) = false →
      (turn l s).reportsAs s)
    (hrl : ∀ u l, (report u l).lanes = u.lanes) (hrt : ∀ u l, (report u l).timestamp = u.timestamp)
    (ha : ∀ s l, s.lane l = base.lane l → s.slot = base.slot → s.now = base.now →
      after base (turn l s) l)
    (hak : ∀ s u l, s.lane l = u.lane l → after base s l → after base u l)
    (ls : List LaneId) (hn : ls.Nodup) (s u : State) (hs : s.timestamp = base.timestamp)
    (hss : s.slot = base.slot) (hsn : s.now = base.now) (hu : u.timestamp = base.timestamp)
    (hul : u.lanes = base.lanes) (hl : ∀ l ∈ ls, s.lane l = base.lane l) (hrep : s.reportsAs u) :
    let t := ls.foldl (fun s l => turn l s) s
    LaneWork s t
      ∧ t.reportsAs ((ls.filter fun l => reports l (base.lane l)).foldl report u)
      ∧ (∀ l, l ∉ ls → t.lane l = s.lane l) ∧ ∀ l ∈ ls, after base t l := by
  induction ls generalizing s u with
  | nil => exact ⟨.refl s, hrep, fun _ _ => rfl, fun _ h => by cases h⟩
  | cons l ls ih =>
    have hl' := List.nodup_cons.1 hn
    have hsl := hl l (List.mem_cons_self ..)
    have hw := hf s l
    have hrest : ∀ k ∈ ls, (turn l s).lane k = base.lane k := fun k hm =>
      (hk s l k (by rintro rfl; exact hl'.1 hm)).trans (hl k (List.mem_cons_of_mem _ hm))
    have hul' (k : LaneId) : u.lane k = base.lane k := by simp [State.lane, hul]
    have key : ∃ u', (turn l s).reportsAs u' ∧ u'.timestamp = base.timestamp
        ∧ u'.lanes = base.lanes
        ∧ ((l :: ls).filter fun l => reports l (base.lane l)).foldl report u =
          (ls.filter fun l => reports l (base.lane l)).foldl report u' := by
      by_cases h : reports l (base.lane l) = true
      · refine ⟨report u l, hr s u l hs hu (hul' l) hsl hrep h, (hrt u l).trans hu,
          (hrl u l).trans hul, ?_⟩
        rw [List.filter_cons_of_pos (by simpa using h), List.foldl_cons]
      · have h : reports l (base.lane l) = false := by simpa using h
        have hq' := hq s l hsl h
        refine ⟨u, ⟨hq'.1.trans hrep.1, hq'.2.trans hrep.2⟩, hu, hul, ?_⟩
        rw [List.filter_cons_of_neg (by simp [h])]
    obtain ⟨u', h1, h2, h3, h4⟩ := key
    obtain ⟨g1, g2, g3, g4⟩ := ih hl'.2 (turn l s) u' (hw.timestamp.trans hs)
      ((funext hw.slot).trans hss) (hw.now.trans hsn) h2 h3 hrest h1
    refine ⟨hw.trans g1, ?_, fun k hm => ?_, fun k hm => ?_⟩
    · rw [h4]; exact g2
    · simp only [List.mem_cons, not_or] at hm
      exact (g3 k hm.2).trans (hk s l k hm.1)
    · rcases List.mem_cons.1 hm with rfl | hm
      · exact hak _ _ _ (g3 _ hl'.1).symm (ha s k hsl hss hsn)
      · exact g4 k hm

end Sys2Proof.Machine
end

