-- ==== Sys2Proof/Laws/LinkReceiver.lean ====
section
/-!
SUPPORT. What the receiver's scan does with each beginning of a run of bytes (R143, R145), and the link
fields that accepting or judging a frame leaves alone.
-/

namespace Sys2Proof.Machine

variable (s : State) (n : Nat)

@[simp] theorem State.scan_nil : s.scan n [] = s.setLink { s.link with assembly := [] } := by
  cases n <;> rfl

/-- In HUNT a byte other than 0xC3 is passed over. -/
theorem State.scan_skip (x : RxByte) (xs : List RxByte) (h : x.value ≠ 0xC3) :
    s.scan (n + 1) (x :: xs) = s.scan n xs := by
  rw [State.scan.eq_def]; exact if_pos h

/-- A SYNC with fewer than three bytes behind it is kept. -/
theorem State.scan_header (x : RxByte) (xs : List RxByte) (h : x.value = 0xC3)
    (hl : xs.length < 3) :
    s.scan (n + 1) (x :: xs) = s.setLink { s.link with assembly := x :: xs } := by
  match xs, hl with
  | [], _ => simp [State.scan, h]
  | [a], _ => simp [State.scan, h]
  | [a, b], _ => simp [State.scan, h]

/-- A frame with LEN out of range is discarded and counted, and the bytes after its SYNC are scanned. -/
theorem State.scan_badLen (x a b len : RxByte) (xs : List RxByte) (h : x.value = 0xC3)
    (hl : len.value.toNat < 2 ∨ 242 < len.value.toNat) :
    s.scan (n + 1) (x :: a :: b :: len :: xs) =
      (s.setLink s.link.countDiscard).scan n (a :: b :: len :: xs) := by
  rw [State.scan.eq_def]
  dsimp only
  rw [if_neg (by simp [h]), if_pos hl]

/-- Less than a whole frame is kept. -/
theorem State.scan_part (x a b len : RxByte) (xs : List RxByte) (h : x.value = 0xC3)
    (h1 : 2 ≤ len.value.toNat) (h2 : len.value.toNat ≤ 242)
    (h3 : xs.length + 4 < len.value.toNat + 6) :
    s.scan (n + 1) (x :: a :: b :: len :: xs) =
      s.setLink { s.link with assembly := x :: a :: b :: len :: xs } := by
  rw [State.scan.eq_def]
  dsimp only
  rw [if_neg (by simp [h]), if_neg (by omega), if_pos (by simpa using h3)]

/-- A whole frame with a right CRC is judged, and the bytes behind it are scanned. -/
theorem State.scan_judge (x a b len : RxByte) (xs : List RxByte) (h : x.value = 0xC3)
    (h1 : 2 ≤ len.value.toNat) (h2 : len.value.toNat ≤ 242)
    (h3 : len.value.toNat + 6 ≤ xs.length + 4)
    (hc : frameCrcOk (((x :: a :: b :: len :: xs).take (len.value.toNat + 6)).map RxByte.value)
      = true) :
    s.scan (n + 1) (x :: a :: b :: len :: xs) =
      (s.judgeFrame ((x :: a :: b :: len :: xs).take (len.value.toNat + 6))).scan n
        ((x :: a :: b :: len :: xs).drop (len.value.toNat + 6)) := by
  rw [State.scan.eq_def]
  dsimp only
  rw [if_neg (by simp [h]), if_neg (by omega), if_neg (by simp; omega), if_pos hc]

/-- A whole frame with a wrong CRC is discarded and counted, and the bytes after its SYNC are scanned. -/
theorem State.scan_badCrc (x a b len : RxByte) (xs : List RxByte) (h : x.value = 0xC3)
    (h1 : 2 ≤ len.value.toNat) (h2 : len.value.toNat ≤ 242)
    (h3 : len.value.toNat + 6 ≤ xs.length + 4)
    (hc : frameCrcOk (((x :: a :: b :: len :: xs).take (len.value.toNat + 6)).map RxByte.value)
      = false) :
    s.scan (n + 1) (x :: a :: b :: len :: xs) =
      (s.setLink s.link.countDiscard).scan n (a :: b :: len :: xs) := by
  rw [State.scan.eq_def]
  dsimp only
  rw [if_neg (by simp [h]), if_neg (by omega), if_neg (by simp; omega), if_neg (by rw [hc]; simp)]

/-- What the receiver does touches the guard and the link alone, and of the link only the assembly, the
queue, and the discarded and overrun counts. -/
structure ReceiverWork (s t : State) : Prop where
  frame : t = { s with guard := t.guard, link := t.link }
  link : t.link =
    { s.link with
      assembly := t.link.assembly, inbound := t.link.inbound, discarded := t.link.discarded
      overrun := t.link.overrun }

theorem ReceiverWork.refl (s : State) : ReceiverWork s s := ⟨rfl, rfl⟩

theorem ReceiverWork.trans {s t u : State} (h : ReceiverWork s t) (g : ReceiverWork t u) :
    ReceiverWork s u where
  frame := by
    have h1 := h.frame
    have g1 := g.frame
    generalize u.guard = a at g1 ⊢
    generalize u.link = b at g1 ⊢
    rw [g1, h1]
  link := by
    have h1 := h.link
    have g1 := g.link
    generalize u.link.assembly = a at g1 ⊢
    generalize u.link.inbound = b at g1 ⊢
    generalize u.link.discarded = c at g1 ⊢
    generalize u.link.overrun = d at g1 ⊢
    rw [g1, h1]

theorem State.setAssembly_work (xs : List RxByte) :
    ReceiverWork s (s.setLink { s.link with assembly := xs }) := ⟨rfl, rfl⟩

theorem State.countDiscard_work : ReceiverWork s (s.setLink s.link.countDiscard) := ⟨rfl, rfl⟩

theorem State.discardAssembly_work : ReceiverWork s (s.setLink s.link.discardAssembly) := by
  unfold Link.discardAssembly
  split <;> exact ⟨rfl, rfl⟩

theorem State.restartGuard_work (m : Moment) : ReceiverWork s (s.restartGuard m) := by
  unfold State.restartGuard
  split <;> exact ⟨rfl, rfl⟩

theorem State.acceptFrame_work (f : Frame) : ReceiverWork s (s.acceptFrame f) := by
  unfold State.acceptFrame
  dsimp only
  split
  · exact (s.restartGuard_work f.ended).trans ⟨rfl, rfl⟩
  · exact (s.restartGuard_work f.ended).trans ⟨rfl, rfl⟩

theorem State.judgeFrame_work (v : List RxByte) : ReceiverWork s (s.judgeFrame v) := by
  unfold State.judgeFrame
  dsimp only
  split
  · exact .refl s
  · split
    · exact .refl s
    · exact s.acceptFrame_work _

theorem State.scan_work (xs : List RxByte) : ReceiverWork s (s.scan n xs) := by
  induction n generalizing s xs with
  | zero => rw [State.scan]; exact ⟨rfl, rfl⟩
  | succ n ih =>
    rw [State.scan.eq_def]
    split
    · exact s.setAssembly_work _
    · exact s.setAssembly_work _
    · rename_i heq
      cases heq
      split
      · exact ih _ _
      · split
        · dsimp only
          split
          · exact s.countDiscard_work.trans (ih _ _)
          · split
            · exact s.setAssembly_work _
            · split
              · exact (s.judgeFrame_work _).trans (ih _ _)
              · exact s.countDiscard_work.trans (ih _ _)
        · exact s.setAssembly_work _

theorem State.receiveByte_work (b : Byte) (began : Moment) :
    ReceiverWork s (s.receiveByte b began) := by
  unfold State.receiveByte
  split
  · dsimp only
    have h : ReceiverWork s (s.endGap began) := by
      unfold State.endGap
      split
      · exact s.discardAssembly_work
      · exact .refl s
    exact h.trans (State.scan_work _ _ _)
  · exact .refl s

/-! ### The scan in the words of Safety.lean -/

/-- A restart of the guard writes the guard alone: OFF stays OFF. -/
theorem State.restartGuard_eq (s : State) (m : Moment) :
    s.restartGuard m = { s with guard := if s.guard = .off then .off else .running m } := by
  cases h : s.guard <;> simp [State.restartGuard, State.setGuard, h]
  rw [← h]

/-- Judging a frame is what a whole frame leaves. -/
theorem State.judgeFrame_frameEnds (s : State) (v : List RxByte) (last : RxByte)
    (h : v.getLast? = some last) :
    s.judgeFrame v = s.frameEnds (v.map RxByte.value) last.received last.groups := by
  unfold State.judgeFrame State.frameEnds
  simp only [h]
  cases addressingOf (byteAt (v.map RxByte.value) 1) s.link.address last.groups with
  | none => rfl
  | some a => simp only [State.acceptFrame, State.restartGuard_eq]; split <;> rfl

/-- The scan looks at a run of bytes as R143, R145 and R146 say, whatever stands in the run. -/
theorem State.scan_looksAt (n : Nat) (s : State) (bytes : List RxByte) (h : bytes.length < n) :
    LooksAt s bytes (s.scan n bytes) := by
  induction n generalizing s bytes with
  | zero => exact absurd h (Nat.not_lt_zero _)
  | succ n ih =>
    cases bytes with
    | nil => rw [State.scan_nil]; exact .hunt s
    | cons x xs =>
      have hx : xs.length < n := by simpa using h
      by_cases hc : x.value = 0xC3
      · match xs, hx with
        | [], _ => rw [State.scan_header s n x [] hc (by simp)]; exact .keepShort s x _ hc (by simp)
        | [a], _ => rw [State.scan_header s n x [a] hc (by simp)]; exact .keepShort s x _ hc (by simp)
        | [a, b], _ =>
          rw [State.scan_header s n x [a, b] hc (by simp)]; exact .keepShort s x _ hc (by simp)
        | a :: b :: len :: ys, hx =>
          by_cases hl : len.value.toNat < 2 ∨ 242 < len.value.toNat
          · rw [State.scan_badLen s n x a b len ys hc hl]
            exact .badLen s _ x len _ hc rfl hl (ih _ _ hx)
          · rw [not_or, Nat.not_lt, Nat.not_lt] at hl
            by_cases hp : ys.length + 4 < len.value.toNat + 6
            · rw [State.scan_part s n x a b len ys hc hl.1 hl.2 hp]
              exact .keep s x len _ hc rfl hl.1 hl.2 (by simpa using hp)
            · rw [Nat.not_lt] at hp
              cases hk : frameCrcOk
                  (((x :: a :: b :: len :: ys).take (len.value.toNat + 6)).map RxByte.value) with
              | false =>
                rw [State.scan_badCrc s n x a b len ys hc hl.1 hl.2 hp hk]
                exact .badCrc s _ x len _ hc rfl hl.1 hl.2 (by simpa using hp) hk (ih _ _ hx)
              | true =>
                rw [State.scan_judge s n x a b len ys hc hl.1 hl.2 hp hk]
                obtain ⟨last, hlast⟩ : ∃ last,
                    ((x :: a :: b :: len :: ys).take (len.value.toNat + 6)).getLast? = some last :=
                  ⟨_, List.getLast?_eq_some_getLast (by simp)⟩
                rw [State.judgeFrame_frameEnds _ _ _ hlast]
                refine .frame s _ x len last _ hc rfl hl.1 hl.2 (by simpa using hp) hlast hk
                  (ih _ _ ?_)
                simp only [List.length_drop, List.length_cons] at hx ⊢
                omega
      · rw [State.scan_skip s n x xs hc]
        exact .passOver s _ x xs hc (ih _ _ hx)

end Sys2Proof.Machine
end

