-- ==== Sys2Proof/Laws/Receivers.lean ====
section
/-!
SUPPORT. What each receiver of a change event and each lane of a RESUME does, in the words of Safety.lean, and
the chain of states that a run of such acts goes through.
-/

namespace Sys2Proof.Machine

/-! ### Acts in a row -/

/-- The states a fold goes through. -/
theorem foldl_chain {α β : Type} (f : α → β → α) (xs : List β) (a : α) :
    ∃ u : Nat → α, u 0 = a ∧ u xs.length = xs.foldl f a
      ∧ ∀ i x, xs[i]? = some x → u (i + 1) = f (u i) x := by
  refine ⟨fun i => (xs.take i).foldl f a, rfl, by simp, fun i x h => ?_⟩
  show (xs.take (i + 1)).foldl f a = _
  rw [List.take_add_one, h, List.foldl_append]
  rfl

/-! ### A comparison that fails (R63 to R67) -/

theorem StepRecord.matches_iff (st : StepRecord) (v : Lines) :
    st.matches_ v = true ↔ st.off v = 0 := by
  simp [StepRecord.matches_, StepRecord.differing, StepRecord.off]

/-- The on-mismatch action after the reports of a fault, at a lane that differs from the reported one in
nothing the action reads. -/
theorem State.act_followsFault (s : State) (l : LaneId) (st : StepRecord) (body : RecordBody)
    (goOn : State → State) (y : Lane) (hs : (s.lane l).state = .running)
    (hy : y.Alike ((s.faultReports l body).lane l))
    (hp : y.position = ((s.faultReports l body).lane l).position)
    (h1 : st.check = .throughout → goOn = id ∧ y = (s.faultReports l body).lane l)
    (h2 : st.check ≠ .throughout → goOn = fun u => u.endStep l) :
    (((s.faultReports l body).setLane l y).act l st.onMismatch goOn).followsFault s l st body := by
  have hx := s.faultReports_lane_self l body
  have hen : ∀ i, y.entryAt i = (s.lane l).entryAt i := fun i => by rw [hy.entryAt, hx]; rfl
  have hpos : y.position = (s.lane l).position := by rw [hp, hx]
  have hrun : ((s.faultReports l body).lane l).state = .running := by rw [hx]; exact hs
  refine ⟨fun hm => ?_, fun hm => ?_, fun hm hc => ?_, fun hm hc => ?_⟩
  · rw [hm]
    have := State.haltOnFault_haltsAt ((s.faultReports l body).setLane l y) l
    rw [State.lane_setLane_self] at this
    have := State.haltsAt_of_alike hy this
    unfold Lane.endsEntry at *
    rw [Lane.nextPosition_eq, hpos, hen] at this
    exact this
  · rw [hm]
    show (State.abortLane _ _ _).endsRun _ _ _
    rw [State.abortLane_busy _ l _ (by rw [State.lane_setLane_self, hy.state, hrun]; decide)]
    exact State.endsRun_of_alike hy (State.endRun_endsRun _ _ _)
  · obtain ⟨rfl, rfl⟩ := h1 hc
    rw [hm, State.setLane_lane_self]; rfl
  · rw [hm, h2 hc]
    refine State.endsStep_of_alike hy (by rw [hrun]; decide) hp (State.endStep_endsStep _ l ?_)
    rw [State.lane_setLane_self, hy.state, hrun]; decide

/-- Everything a comparison does at a lane that runs a step. -/
theorem State.compareAt_spec (s : State) (l : LaneId) (st : StepRecord) (v : Lines)
    (hs : (s.lane l).state = .running) :
    (st.check = .throughout → st.off v = 0 →
        s.compareAt l st v = s.setLane l { s.lane l with checking := true })
      ∧ (st.check = .throughout → st.off v ≠ 0 →
        (s.compareAt l st v).followsFault s l st
          (.stepFault l (s.lane l).position .throughout v (st.off v)))
      ∧ (st.check = .awaitMatch → st.off v ≠ 0 →
        s.compareAt l st v = s.setLane l { s.lane l with checking := true })
      ∧ (st.check = .awaitMatch → st.off v = 0 → (s.compareAt l st v).endsStep s l) := by
  have hn : st.off v ≠ 0 → st.matches_ v = false := fun h => by
    rw [Bool.eq_false_iff, Ne, StepRecord.matches_iff]; exact h
  refine ⟨fun hc h => ?_, fun hc h => ?_, fun hc h => ?_, fun hc h => ?_⟩
  · simp [State.compareAt, hc, (StepRecord.matches_iff st v).2 h]
  · have he : s.compareAt l st v =
        ((s.faultReports l (.stepFault l (s.lane l).position .throughout v (st.off v))).setLane l
          ((s.faultReports l (.stepFault l (s.lane l).position .throughout v (st.off v))).lane l)).act
          l st.onMismatch id := by
      rw [State.setLane_lane_self, ← State.recordFault_eq]
      simp only [State.compareAt, hc, hn h, Bool.false_eq_true, if_false]
      rfl
    rw [he]
    exact State.act_followsFault s l st _ id _ hs
      ⟨⟨⟨rfl, rfl, rfl, rfl⟩, rfl, rfl, rfl, rfl, rfl, rfl, rfl⟩, rfl, rfl, rfl, rfl⟩ rfl
      (fun _ => ⟨rfl, rfl⟩) fun g => absurd hc g
  · simp [State.compareAt, hc, hn h]
  · simp only [State.compareAt, hc, (StepRecord.matches_iff st v).2 h, if_true]
    exact s.endStep_endsStep l (by rw [hs]; decide)

/-! ### The receivers of a change event -/

theorem State.laneTakesChange_laneTakes (s : State) (v : Lines) (l : LaneId) :
    (s.laneTakesChange v l).laneTakes s l v := by
  refine ⟨fun h => ?_, fun st hs hc hst => ?_⟩
  · unfold State.laneTakesChange
    split
    · rename_i h1 h2 _
      rcases h with h | h
      · exact absurd h1 h
      · rw [h2] at h; cases h
    · rfl
  · have he : s.laneTakesChange v l = s.compareAt l st v := by
      simp [State.laneTakesChange, hs, hc, hst]
    have hk : s.setLane l { s.lane l with checking := true } = s := by
      conv_rhs => rw [← s.setLane_lane_self l]
      congr 1
      rw [← hc]
    obtain ⟨h1, h2, h3, h4⟩ := s.compareAt_spec l st v hs
    rw [he]
    exact ⟨fun a b => (h1 a b).trans hk, h2, fun a b => (h3 a b).trans hk, h4⟩

theorem WatchDef.met_iff (d : WatchDef) (p v : Lines) : d.met p v = true ↔ d.isMet p v := by
  unfold WatchDef.met WatchDef.isMet
  cases d.condition <;> simp [WatchDef.equal]

/-- `u` holds the lanes, references, slots and time of `s`, and reports as `told` does: a hit of a watch
before its LANE action (R103). -/
structure State.Told (s told u : State) : Prop where
  reports : u.reportsAs told
  lanes : u.lanes = s.lanes
  refs : u.refs = s.refs
  slot : u.slot = s.slot
  now : u.now = s.now
  timestamp : u.timestamp = told.timestamp
  toldLanes : told.lanes = s.lanes

variable {s told u : State} (w : WatchId) (l : LaneId)

theorem State.Told.lane (h : s.Told told u) (k : LaneId) : u.lane k = s.lane k := by
  simp [State.lane, h.lanes]

theorem State.Told.toldLane (h : s.Told told u) (k : LaneId) : told.lane k = s.lane k := by
  simp [State.lane, h.toldLanes]

/-- START, delivered by a watch (R106). -/
theorem State.Told.start (h : s.Told told u) :
    let t := u.laneAction w l .start
    t.refs = s.refs ∧ t.keepsOtherLanes s l
      ∧ ((s.lane l).state = .armed ∧ (s.lane l).sources.getLsbD 1 = true →
          t.reportsAs (told.startReports l (some (.watch w)))
            ∧ ∀ st, s.slot (s.lane l).firstSlot = some st →
                (t.lane l).startedBy (s.lane l) (.watch w) st s.now)
      ∧ ((s.lane l).state ≠ .armed ∨ (s.lane l).sources.getLsbD 1 = false →
          t.reportsAs told ∧ t.lane l = s.lane l) := by
  by_cases ha : (s.lane l).state = .armed ∧ (s.lane l).sources.getLsbD 1 = true
  · have he : u.laneAction w l .start = u.takeStart l (.watch w) := by
      show u.startLane l _ = _
      unfold State.startLane
      rw [h.lane]; exact if_pos ha
    obtain ⟨g1, g2, g3, g4⟩ := u.takeStart_spec l (.watch w)
    rw [he]
    refine ⟨by rw [g1]; exact h.refs, fun k hk => (g2 k hk).trans (h.lane k), fun _ => ⟨?_, ?_⟩,
      fun hn => ?_⟩
    · have := State.startReports_congr (l := l) (some (.watch w)) h.reports h.timestamp
        (by rw [h.lane, h.toldLane]) (by rw [h.lane, h.toldLane])
      exact ⟨g3.1.trans this.1, g3.2.trans this.2⟩
    · rw [h.slot, h.lane, h.now] at g4; exact g4
    · rcases hn with hn | hn
      · exact absurd ha.1 hn
      · rw [ha.2] at hn; cases hn
  · have he : u.laneAction w l .start = u := by
      show u.startLane l _ = _
      unfold State.startLane
      rw [h.lane]; exact if_neg ha
    rw [he]
    exact ⟨h.refs, fun k _ => h.lane k, fun g => absurd g ha, fun _ => ⟨h.reports, h.lane l⟩⟩

/-- PAUSE, delivered by a watch (R92). -/
theorem State.Told.pause (h : s.Told told u) :
    let t := u.laneAction w l .pause
    t.refs = s.refs ∧ t.keepsOtherLanes s l ∧ t.reportsAs told
      ∧ t.lane l =
          if (s.lane l).state = .running then { s.lane l with pausePending := true }
          else s.lane l := by
  show (u.askPause l).refs = s.refs ∧ (u.askPause l).keepsOtherLanes s l
    ∧ (u.askPause l).reportsAs told ∧ (u.askPause l).lane l = _
  unfold State.askPause
  rw [h.lane]
  split
  · exact ⟨h.refs, fun k hk => (State.lane_setLane_ne _ _ (Ne.symm hk)).trans (h.lane k), h.reports,
      State.lane_setLane_self _ _ _⟩
  · exact ⟨h.refs, fun k _ => h.lane k, h.reports, h.lane l⟩

/-- ABORT, delivered by a watch (R82, R92). -/
theorem State.Told.abort (h : s.Told told u) :
    let t := u.laneAction w l .abort
    t.keepsOtherLanes s l
      ∧ ((s.lane l).state = .idle → t.reportsAs told ∧ t.refs = s.refs ∧ t.lane l = s.lane l)
      ∧ ((s.lane l).state ≠ .idle →
          t.reportsAs (told.endReports l .abortedWatch)
            ∧ (t.lane l).endedAs (s.lane l) .abortedWatch
            ∧ (t.lane l).faultCount = (s.lane l).faultCount
            ∧ t.givesBackPages s (s.lane l).segments) := by
  have he : u.laneAction w l .abort = u.abortLane l .abortedWatch := rfl
  rw [he]
  refine ⟨fun k hk => (State.abortLane_other u _ hk).trans (h.lane k), fun hi => ?_, fun hi => ?_⟩
  · rw [State.abortLane_idle u l _ (by rw [h.lane]; exact hi)]
    exact ⟨h.reports, h.refs, h.lane l⟩
  · rw [State.abortLane_busy u l _ (by rw [h.lane]; exact hi)]
    obtain ⟨-, -, g3, g4, g5, g6⟩ := u.endRun_endsRun l .abortedWatch
    rw [h.lane] at g4 g5 g6
    have := State.endReports_congr (l := l) .abortedWatch h.reports h.timestamp
      (by rw [h.lane, h.toldLane]) (by rw [h.lane, h.toldLane]) (by rw [h.lane, h.toldLane])
    refine ⟨⟨g3.1.trans this.1, g3.2.trans this.2⟩, g4, g5, fun p hp => ?_⟩
    have := g6 p hp
    simp only [State.refCount, h.refs] at this ⊢
    exact this

/-- Everything a hit does. -/
theorem State.watchHit_hasHit (s : State) (w : WatchId) (d : WatchDef) (p v : Lines)
    (h : s.isHit w d p v) : (s.watchHit w d p v).hasHit s w d p v := by
  obtain ⟨hen, -, -, hho⟩ := h
  have hframe := (s.watchHit_work w d p v).frame
  have hother : ∀ k, k ≠ w → (s.watchHit w d p v).watch k = s.watch k := fun k hk =>
    s.watchHit_other w k d p v hk
  let x : Watch := { s.watch w with hits := saturate 65535 (s.watch w).hits }
  generalize ha : s.setWatch w x = s1
  generalize hb : (if d.record then s1.takeRecord (.watchHit w v (p ^^^ v)) else s1) = s2
  generalize hc : (if d.notify then s2.raise (.watchHit w) (.count x.hits) else s2) = s3
  have h12 : LaneWork s1 s2 := by
    rw [← hb]; split
    · exact s1.takeRecord_work _
    · exact .refl s1
  have h23 : LaneWork s2 s3 := by
    rw [← hc]; split
    · exact s2.raise_work _ _
    · exact .refl s2
  have h13 := h12.trans h23
  generalize hm : (match d.laneAction with | some (l, a) => s3.laneAction w l a | none => s3) = u
  have he : s.watchHit w d p v = u.setWatch w ((u.watch w).afterHit d s.timestamp) := by
    rw [← hm, ← hc, ← hb, ← ha]; rfl
  have hx : u.watch w = x := by
    have hu : LaneWork s3 u := by
      rw [← hm]; split
      · exact s3.laneAction_work _ _ _
      · exact .refl s3
    rw [LaneWork.watch (h13.trans hu) w, ← ha]
    exact State.watch_setWatch_self _ _ _
  generalize hrec : (if d.record then s.takeRecord (.watchHit w v (p ^^^ v)) else s) = recorded
  generalize htold : (if d.notify then recorded.raise (.watchHit w) (.count x.hits) else recorded)
    = told
  have hr2 : s2.reportsAs recorded := by
    have h1 : s1.reportsAs s := by rw [← ha]; exact ⟨rfl, rfl⟩
    rw [← hb, ← hrec]; split
    · exact State.takeRecord_congr _ h1 (by rw [← ha]; rfl)
    · exact h1
  have hr3 : s3.reportsAs told := by
    rw [← hc, ← htold]; split
    · exact State.raise_congr _ _ hr2
    · exact hr2
  have hl3 : s3.lanes = s.lanes ∧ s3.refs = s.refs := by
    rw [← hc, ← hb, ← ha]
    split <;> split <;> simp
  have hlt : told.lanes = s.lanes ∧ told.timestamp = s.timestamp := by
    rw [← htold, ← hrec]
    split <;> split <;> simp
  have hts : s3.timestamp = told.timestamp := by
    rw [h13.timestamp, hlt.2, ← ha]; rfl
  have hsl : s3.slot = s.slot := by rw [funext h13.slot, ← ha]; rfl
  have hnow : s3.now = s.now := by rw [h13.now, ← ha]; rfl
  unfold State.hasHit
  have hsat : (if (s.watch w).hits < 65535 then (s.watch w).hits + 1 else 65535) = x.hits := rfl
  rw [hsat]
  dsimp only
  rw [hrec, htold]
  refine ⟨hframe, hother, ?_, ?_⟩
  · rw [he, State.watch_setWatch_self, hx]
    show Watch.mk _ _ _ _ = Watch.mk _ _ _ _
    simp only [x, hho, hen]
  · rw [he]
    cases hd : d.laneAction with
    | none =>
      rw [hd] at hm
      subst hm
      exact ⟨hr3, hl3.1, hl3.2⟩
    | some la =>
      obtain ⟨l, a⟩ := la
      rw [hd] at hm
      subst hm
      have key : s.Told told s3 := ⟨hr3, hl3.1, hl3.2, hsl, hnow, hts, hlt.1⟩
      cases a with
      | start => exact key.start w l
      | pause => exact key.pause w l
      | abort => exact key.abort w l

theorem State.evaluateWatch_watchTakes (s : State) (p v : Lines) (w : WatchId) :
    (s.evaluateWatch p v w).watchTakes s w p v := by
  refine ⟨fun d h => ?_, fun h => ?_⟩
  · have he : s.evaluateWatch p v w = s.watchHit w d p v := by
      unfold State.evaluateWatch
      rw [h.1, h.2.1]
      exact if_pos ⟨(WatchDef.met_iff d p v).2 h.2.2.1, h.2.2.2⟩
    rw [he]
    exact s.watchHit_hasHit w d p v h
  · unfold State.evaluateWatch
    split
    · rename_i d h1 h2
      exact if_neg fun g => h d ⟨h1, h2, (WatchDef.met_iff d p v).1 g.1, g.2⟩
    · rfl

theorem State.receiverTakes_receives (s : State) (p v : Lines) (r : Receiver) :
    (s.receiverTakes p v r).receives s r p v := by
  cases r with
  | lane l => exact s.laneTakesChange_laneTakes v l
  | watchUnit =>
    obtain ⟨u, h0, h8, hu⟩ := foldl_chain (fun s w => State.evaluateWatch s p v w) watchIds s
    refine ⟨u, h0, h8, fun w => ?_⟩
    rw [hu w.val w (by revert w; decide)]
    exact State.evaluateWatch_watchTakes _ p v w

/-! ### The order of delivery -/

theorem deliveryOrder_perm (order : List Receiver) :
    (deliveryOrder order).Perm [.watchUnit, .lane 0, .lane 1, .lane 2, .lane 3] := by
  refine (List.perm_ext_iff_of_nodup (deliveryOrder_nodup order) (by decide)).2 fun r => ?_
  refine ⟨fun _ => ?_, fun _ => mem_deliveryOrder order r⟩
  cases r with
  | watchUnit => exact List.mem_cons_self ..
  | lane l => fin_cases l <;> decide

/-- An order that names every receiver once is the order taken. -/
theorem deliveryOrder_of_perm (order : List Receiver)
    (h : order.Perm [.watchUnit, .lane 0, .lane 1, .lane 2, .lane 3]) :
    deliveryOrder order = order := by
  have hf : ∀ (o acc : List Receiver), (acc ++ o).Nodup →
      o.foldl (fun acc r => if acc.contains r then acc else acc ++ [r]) acc = acc ++ o := by
    intro o
    induction o with
    | nil => intro acc _; simp
    | cons a as ih =>
      intro acc hn
      have ha : a ∉ acc := fun hm => by
        have := (List.nodup_append.1 hn).2.2 a hm a (List.mem_cons_self ..)
        exact this rfl
      rw [List.foldl_cons, if_neg (by simpa using ha), ih _ (by simpa using hn)]
      simp
  have hn : order.Nodup := h.nodup_iff.2 (by decide)
  unfold deliveryOrder
  rw [hf order [] (by simpa using hn)]
  have he : allReceivers.filter (fun r => !(([] : List Receiver) ++ order).contains r) = [] := by
    refine List.filter_eq_nil_iff.2 fun r hr => ?_
    have : r ∈ order := h.mem_iff.2 hr
    simp [this]
  simp only [he]
  simp

/-- CHANGE_EVENT that finds a new sample: the receivers take it one after another. -/
theorem exec_changeEvent {s : State} {o : Outside} {v : Lines} (order : List Receiver)
    (h : s.changesTo o v) :
    exec (.changeEvent o order) s =
      .next ((deliveryOrder order).foldl (fun t r => t.receiverTakes s.sampled v r)
        (s.withSample o v)) := by
  obtain ⟨hr, hat, hv, hne⟩ := h
  have ht := State.takeSample_change { s with outside := o } order hat (by rw [hv]; exact hne)
  rw [hv] at ht
  exact congrArg Host.Outcome.next ((State.outsideReset_none s _ hr).trans ht)

/-! ### RESUME (R86 to R88) -/

theorem State.resumeLane_resumes (s : State) (l : LaneId) : (s.resumeLane l).resumes s l := by
  have hl : (s.setLane l { s.lane l with state := .running, resumePoint := .none }).lane l
      = { s.lane l with state := .running, resumePoint := .none } := State.lane_setLane_self _ _ _
  refine ⟨fun h => ?_, fun h => ?_, fun h => ?_⟩
  · have he : s.resumeLane l =
        (s.setLane l { s.lane l with state := .running, resumePoint := .none }).beginStep l := by
      simp only [State.resumeLane, h]
    rw [he]
    have hf := State.beginStep_frame
      (s.setLane l { s.lane l with state := .running, resumePoint := .none }) l
    have hb := State.beginStep_lane
      (s.setLane l { s.lane l with state := .running, resumePoint := .none }) l
    rw [hl] at hb
    refine ⟨?_, fun k hk => ?_, ?_⟩
    · generalize State.beginStep _ l = t at hf ⊢
      rw [hf]; rfl
    · rw [State.beginStep_other _ _ _ hk, State.lane_setLane_ne _ _ (Ne.symm hk)]
    · rcases hb with ⟨st, h1, h2⟩ | ⟨h1, h2⟩ <;> rw [h2]
      · refine ⟨rfl, rfl, ?_, rfl, fun st' h' => ?_⟩
        · simp [Lane.sameRun, Lane.sameProgram, Lane.withStep]
        · have : st' = st := Option.some.inj (h'.symm.trans h1)
          rw [this]
          exact Lane.withStep_begins _ _ _
      · refine ⟨rfl, rfl, ?_, rfl, fun st' h' => ?_⟩
        · simp [Lane.sameRun, Lane.sameProgram, Lane.noStep]
        · exact absurd (h'.symm.trans h1) (by simp)
  · have := State.complete_completesEntry
      (s.setLane l { s.lane l with state := .running, resumePoint := .none }) l
      (by rw [hl]; simp)
    rw [hl] at this
    simpa [State.resumeLane, h] using this
  · have := State.afterHalt_leavesEntry
      (s.setLane l { s.lane l with state := .running, resumePoint := .none }) l
    rw [hl] at this
    simpa [State.resumeLane, h] using this

theorem resumeAct_takesResume (s : State) (l : LaneId) :
    ((resumeAct l s).1).takesResume s l true ((resumeAct l s).2).code := by
  refine ⟨nofun, fun _ h => ?_, fun _ h g => ?_, fun _ h g => ?_, fun _ h => ?_⟩
  · have he : resumeAct l s = (s.resumeLane l, .resumed) := by
      rcases h with h | h <;> simp [resumeAct, h]
    rw [he]; exact ⟨s.resumeLane_resumes l, rfl⟩
  · have he : resumeAct l s = (s.setLane l (s.lane l).cancelPause, .cancelled) := by
      simp [resumeAct, h, g]
    rw [he]; exact ⟨rfl, rfl⟩
  · have he : resumeAct l s = (s, .noEffect) := by simp [resumeAct, h, g]
    rw [he]; exact ⟨rfl, rfl⟩
  · have he : resumeAct l s = (s, .noEffect) := by rcases h with h | h <;> simp [resumeAct, h]
    rw [he]; exact ⟨rfl, rfl⟩

end Sys2Proof.Machine
end

