-- ==== Sys2Proof/Laws/Serials.lean ====
section
/-!
SUPPORT. How many serials each operation takes of the ring and of the notice set at most (`Takes`), and that
the stored serials stay in order through it (R1, R114, R128): one lemma per operation, down to a lane, a
receiver and a change event. A step takes boundedly many serials, so serials that lie within the window of
R1 before it are still in order after it.
-/

namespace Sys2Proof.Machine

/-! ### Serials in order -/

/-- Fewer serials of a row in order are in order. -/
theorem serialsInOrder.sublist {next : Serial} {xs ys : List Serial} (h : serialsInOrder next xs)
    (hs : List.Sublist ys xs) : serialsInOrder next ys :=
  ⟨h.1.sublist hs, fun a ha => h.2 a (hs.subset ha)⟩

/-- A serial that has not been passed by a whole round is one further away after the next is taken. -/
theorem serial_distance_succ (next a : Serial) (h : (next - a).toNat + 1 < 2 ^ 32) :
    (next + 1 - a).toNat = (next - a).toNat + 1 := by
  bv_omega

/-- The next serial, stored after serials less than a round away, keeps the order. -/
theorem serialsInOrder.take {next : Serial} {xs : List Serial} (h : serialsInOrder next xs)
    (hn : ∀ a ∈ xs, (next - a).toNat + 1 < 2 ^ 32) : serialsInOrder (next + 1) (xs ++ [next]) := by
  have hd : ∀ a ∈ xs, (next + 1 - a).toNat = (next - a).toNat + 1 := fun a ha =>
    serial_distance_succ next a (hn a ha)
  have h1 : (next + 1 - next).toNat = 1 := by
    simp
  refine ⟨List.pairwise_append.2 ⟨h.1.imp_of_mem fun ha hb hab => ?_, List.pairwise_singleton _ _,
    fun a ha b hb => ?_⟩, fun a ha => ?_⟩
  · rw [hd _ ha, hd _ hb]; omega
  · rw [List.mem_singleton.1 hb, hd a ha, h1]
    have := h.2 a ha
    have : (next - a).toNat ≠ 0 := fun hz => this (by
      have := BitVec.eq_of_toNat_eq (x := next - a) (y := 0) (by simpa using hz)
      have := congrArg (· + a) this
      simpa [BitVec.sub_add_cancel] using this.symm)
    omega
  · rcases List.mem_append.1 ha with ha | ha
    · intro he
      have := hd a ha
      rw [he] at this
      simp at this
    · rw [List.mem_singleton.1 ha]
      intro he
      rw [← he] at h1
      simp at h1

/-- Ring and notice set in order, with no stored serial further than `n` from its next one. -/
structure State.SerialsWithin (s : State) (n : Nat) : Prop where
  ring : s.ring.inOrder
  notices : s.notices.inOrder
  ringNear : ∀ r ∈ s.ring.records, (s.ring.nextSerial - r.serial).toNat ≤ n
  noticesNear : ∀ e ∈ s.notices.entries, (s.notices.nextSerial - e.serial).toNat ≤ n

/-- Serials in order within the window of R1. -/
theorem State.serialsWithin_window {s : State} (hr : s.ring.inOrder) (hn : s.notices.inOrder)
    (hw : s.serialsInWindow) : s.SerialsWithin (2 ^ 31) := by
  have h : ∀ a b : Serial, atOrBefore a b = true → (b - a).toNat ≤ 2 ^ 31 := fun a b h => by
    simp only [atOrBefore, decide_eq_true_eq] at h; omega
  exact ⟨hr, hn, fun r hm => h _ _ (hw.1 r hm), fun e hm => h _ _ (hw.2 e hm)⟩

/-- From `s` to `t` at most `k` serials are taken of each count, and the order holds. -/
def Takes (k : Nat) (s t : State) : Prop :=
  ∀ n, n + k < 2 ^ 32 → s.SerialsWithin n → t.SerialsWithin (n + k)

namespace Takes

variable {s t u : State} {j k : Nat}

theorem refl (s : State) : Takes 0 s s := fun _ _ h => h

/-- Nothing of ring and notices changes. -/
theorem same (hr : t.ring = s.ring) (hn : t.notices = s.notices) : Takes 0 s t := fun _ _ h =>
  ⟨hr ▸ h.ring, hn ▸ h.notices, hr ▸ h.ringNear, hn ▸ h.noticesNear⟩

theorem trans (h : Takes j s t) (g : Takes k t u) : Takes (j + k) s u := fun n hn hs => by
  have := g (n + j) (by omega) (h n (by omega) hs)
  rwa [Nat.add_assoc] at this

theorem mono (h : Takes j s t) (hjk : j ≤ k) : Takes k s t := fun n hn hs =>
  have g := h n (by omega) hs
  ⟨g.ring, g.notices, fun r hr => (g.ringNear r hr).trans (by omega),
    fun e he => (g.noticesNear e he).trans (by omega)⟩

/-- Serials in order within the window are in order after any step's work. -/
theorem inOrder (h : Takes k s t) (hk : k ≤ 2 ^ 30) (hr : s.ring.inOrder) (hn : s.notices.inOrder)
    (hw : s.serialsInWindow) : t.ring.inOrder ∧ t.notices.inOrder :=
  have g := h (2 ^ 31) (by omega) (State.serialsWithin_window hr hn hw)
  ⟨g.ring, g.notices⟩

/-- A run of acts, each of at most `k` serials. -/
theorem foldl {α : Type} (f : State → α → State) (hf : ∀ s a, Takes k s (f s a)) (xs : List α)
    (s : State) : Takes (k * xs.length) s (xs.foldl f s) := by
  induction xs generalizing s with
  | nil => exact .refl s
  | cons a as ih =>
    exact ((hf s a).trans (ih _)).mono (by rw [List.length_cons, Nat.mul_succ, Nat.add_comm])

end Takes

/-! ### Ring and notice set -/

theorem State.raise_takes (s : State) (key : NoticeKey) (d : NoticeDetail) :
    Takes 1 s (s.raise key d) := by
  cases hr : s.notices.records key with
  | false =>
    exact (Takes.same (by rfl) (by exact NoticeSet.raise_of_masked _ key d hr)).mono (Nat.zero_le 1)
  | true =>
    intro n hn h
    have he : (s.raise key d).notices = _ := NoticeSet.raise_of_records _ key d hr
    have hs : List.Sublist ((s.notices.entries.filter fun e => e.key != key).map NoticeEntry.serial)
        (s.notices.entries.map NoticeEntry.serial) := List.filter_sublist.map _
    have hfar : ∀ e ∈ s.notices.entries, (s.notices.nextSerial - e.serial).toNat + 1 < 2 ^ 32 :=
      fun e hm => by have := h.noticesNear e hm; omega
    refine ⟨h.ring, ?_, fun r hm => (h.ringNear r hm).trans (Nat.le_succ n), fun e hm => ?_⟩
    · unfold NoticeSet.inOrder
      rw [he]
      simp only [List.map_append, List.map_cons, List.map_nil, NoticeSet.entryFor_serial]
      refine (h.notices.sublist hs).take fun a ha => ?_
      obtain ⟨e, hm, rfl⟩ := List.mem_map.1 (hs.subset ha)
      exact hfar e hm
    · rw [he] at hm ⊢
      simp only at hm ⊢
      rcases List.mem_append.1 hm with hm | hm
      · have hm := (List.mem_filter.1 hm).1
        rw [serial_distance_succ _ _ (hfar e hm)]
        exact Nat.succ_le_succ (h.noticesNear e hm)
      · rw [List.mem_singleton.1 hm, NoticeSet.entryFor_serial, serial_distance_succ _ _ (by simp)]
        simp

theorem State.raiseLane_takes (s : State) (k : LaneNotice) (l : LaneId) (d : NoticeDetail) :
    Takes 1 s (s.raiseLane k l d) := s.raise_takes _ _

/-- The ring takes the next serial, and stores some of its records with or without the new one. -/
theorem State.setRing_takes (s : State) (kept : List CaptureRecord) (new : List CaptureRecord)
    (hk : List.Sublist kept s.ring.records)
    (hn : ∀ r ∈ new, r.serial = s.ring.nextSerial) (h1 : new.length ≤ 1) :
    Takes 1 s
      (s.setRing { s.ring with records := kept ++ new, nextSerial := s.ring.nextSerial + 1 }) := by
  intro n hlt h
  have hfar : ∀ r ∈ kept, (s.ring.nextSerial - r.serial).toNat + 1 < 2 ^ 32 :=
    fun r hm => by have := h.ringNear r (hk.subset hm); omega
  have hord := (h.ring.sublist (hk.map CaptureRecord.serial)).take fun a ha => by
    obtain ⟨r, hm, rfl⟩ := List.mem_map.1 ha
    exact hfar r hm
  refine ⟨?_, h.notices, fun r hm => ?_,
    fun e hm => (h.noticesNear e hm).trans (Nat.le_succ n)⟩
  · show serialsInOrder _ ((kept ++ new).map CaptureRecord.serial)
    refine hord.sublist ?_
    rw [List.map_append]
    refine List.Sublist.append_left ?_ _
    match new, hn, h1 with
    | [], _, _ => exact List.nil_sublist _
    | [r], hn, _ => rw [List.map_singleton, hn r (List.mem_singleton.2 rfl)]
  · simp only [State.setRing_ring] at hm ⊢
    rcases List.mem_append.1 hm with hm | hm
    · rw [serial_distance_succ _ _ (hfar r hm)]
      exact Nat.succ_le_succ (h.ringNear r (hk.subset hm))
    · rw [hn r hm, serial_distance_succ _ _ (by simp)]
      simp

theorem State.takeRecord_takes (s : State) (b : RecordBody) : Takes 2 s (s.takeRecord b) := by
  rcases s.takeRecord_cases b with ⟨-, e⟩ | ⟨-, -, e⟩ | ⟨o, rest, -, -, hr, e⟩ <;> rw [e]
  · have h := s.setRing_takes s.ring.records
      [{ serial := s.ring.nextSerial, stamp := s.timestamp, body := b }] (List.Sublist.refl _)
      (by simp) (by simp)
    dsimp only
    split
    · exact h.trans (State.raise_takes _ _ _)
    · exact h.mono (by omega)
  · have h := s.setRing_takes s.ring.records [] (List.Sublist.refl _) nofun (by simp)
    rw [List.append_nil] at h
    exact h.trans (State.raise_takes _ _ _)
  · have h := s.setRing_takes rest
      [{ serial := s.ring.nextSerial, stamp := s.timestamp, body := b }]
      (hr ▸ List.sublist_cons_self _ _) (by simp) (by simp)
    exact h.trans (State.raise_takes _ _ _)

/-! ### The lane engine -/

theorem State.setLane_takes (s : State) (l : LaneId) (x : Lane) : Takes 0 s (s.setLane l x) :=
  .same rfl rfl

theorem State.beginStep_takes (s : State) (l : LaneId) : Takes 0 s (s.beginStep l) := by
  unfold State.beginStep; split <;> exact s.setLane_takes _ _

theorem State.haltLane_takes (s : State) (l : LaneId) (p : Position) (r : ResumePoint) :
    Takes 1 s (s.haltLane l p r) :=
  ((s.setLane_takes _ _).trans (State.raiseLane_takes _ _ _ _)).mono (by omega)

theorem State.goOnAt_takes (s : State) (l : LaneId) (p : Position) : Takes 1 s (s.goOnAt l p) := by
  unfold State.goOnAt; split
  · exact ((s.setLane_takes _ _).trans (State.raiseLane_takes _ _ _ _)).mono (by omega)
  · exact ((s.setLane_takes _ _).trans (State.beginStep_takes _ _)).mono (by omega)

theorem State.reachCheckpoint_takes (s : State) (l : LaneId) (i : Nat) :
    Takes 1 s (s.reachCheckpoint l i) := by
  unfold State.reachCheckpoint; split
  · exact s.raiseLane_takes _ _ _
  · exact (Takes.refl s).mono (by omega)

theorem State.recordStart_takes (s : State) (l : LaneId) (src : Option StartSource) :
    Takes 2 s (s.recordStart l src) := by
  unfold State.recordStart; split
  · exact s.takeRecord_takes _
  · exact (Takes.refl s).mono (by omega)

theorem State.recordEnd_takes (s : State) (l : LaneId) (r : Result) :
    Takes 2 s (s.recordEnd l r) := by
  unfold State.recordEnd; split
  · exact s.takeRecord_takes _
  · exact (Takes.refl s).mono (by omega)

theorem State.startLane_takes (s : State) (l : LaneId) (src : StartSource) :
    Takes 3 s (s.startLane l src) := by
  unfold State.startLane; split
  · exact ((((s.setLane_takes _ _).trans (State.recordStart_takes _ _ _)).trans
      (State.reachCheckpoint_takes _ _ _)).trans (State.beginStep_takes _ _)).mono (by omega)
  · exact (Takes.refl s).mono (by omega)

theorem State.endRun_takes (s : State) (l : LaneId) (r : Result) : Takes 3 s (s.endRun l r) :=
  ((s.recordEnd_takes _ _).trans (State.raiseLane_takes _ _ _ _)).trans (.same (by rfl) (by rfl))

theorem State.abortLane_takes (s : State) (l : LaneId) (r : Result) :
    Takes 3 s (s.abortLane l r) := by
  unfold State.abortLane; split
  · exact (Takes.refl s).mono (by omega)
  · exact s.endRun_takes _ _

theorem State.restartRun_takes (s : State) (l : LaneId) : Takes 4 s (s.restartRun l) :=
  (((s.setLane_takes _ _).trans (State.recordStart_takes _ _ _)).trans
    (State.reachCheckpoint_takes _ _ _)).trans (State.goOnAt_takes _ _ _)

theorem State.endDecision_takes (s : State) (l : LaneId) : Takes 4 s (s.endDecision l) := by
  unfold State.endDecision; dsimp only; repeat' split
  · exact (s.endRun_takes _ _).mono (by omega)
  · exact s.restartRun_takes _
  · exact (s.endRun_takes _ _).mono (by omega)

theorem State.afterHalt_takes (s : State) (l : LaneId) : Takes 4 s (s.afterHalt l) := by
  unfold State.afterHalt; dsimp only; split
  · exact s.endDecision_takes _
  · exact ((s.reachCheckpoint_takes _ _).trans (State.goOnAt_takes _ _ _)).mono (by omega)

theorem State.reportMark_takes (s : State) (l : LaneId) (i : Nat) :
    Takes 1 s (s.reportMark l i) := by
  unfold State.reportMark; split
  · exact s.raiseLane_takes _ _ _
  · exact (Takes.refl s).mono (by omega)

theorem State.deliverCue_takes (s : State) (l : LaneId) (i : Nat) :
    Takes 3 s (s.deliverCue l i) := by
  unfold State.deliverCue; split
  · exact s.startLane_takes _ _
  · exact (Takes.refl s).mono (by omega)

theorem State.passCheckpoint_takes (s : State) (l : LaneId) (i : Nat) :
    Takes 1 s (s.passCheckpoint l i) := by
  unfold State.passCheckpoint; split
  · exact s.raiseLane_takes _ _ _
  · exact (Takes.refl s).mono (by omega)

theorem State.complete_takes (s : State) (l : LaneId) : Takes 9 s (s.complete l) := by
  have h (i : Nat) : Takes 5 s (((s.reportMark l i).deliverCue l i).passCheckpoint l i) :=
    ((s.reportMark_takes l i).trans (State.deliverCue_takes _ _ _)).trans
      (State.passCheckpoint_takes _ _ _)
  unfold State.complete; dsimp only; split
  · exact ((h _).trans (State.haltLane_takes _ _ _ _)).mono (by omega)
  · exact (h _).trans (State.afterHalt_takes _ _)

theorem State.endStep_takes (s : State) (l : LaneId) : Takes 9 s (s.endStep l) := by
  unfold State.endStep; dsimp only; split
  · exact ((s.setLane_takes _ _).trans (State.complete_takes _ _)).mono (by omega)
  · exact ((s.setLane_takes _ _).trans (State.goOnAt_takes _ _ _)).mono (by omega)

theorem State.recordFault_takes (s : State) (l : LaneId) (b : RecordBody) :
    Takes 3 s (s.recordFault l b) :=
  ((s.takeRecord_takes _).trans (State.raiseLane_takes _ _ _ _)).trans (State.setLane_takes _ _ _)

theorem State.act_takes (s : State) (l : LaneId) (m : Mismatch) (f : State → State)
    (hf : Takes 9 s (f s)) : Takes 9 s (s.act l m f) := by
  unfold State.act; split
  · exact hf
  · exact (s.haltLane_takes _ _ _).mono (by omega)
  · exact (s.abortLane_takes _ _).mono (by omega)

theorem State.holdExpires_takes (s : State) (l : LaneId) (st : StepRecord) :
    Takes 12 s (s.holdExpires l st) := by
  unfold State.holdExpires; dsimp only; split
  · exact (s.recordFault_takes _ _).trans (State.act_takes _ _ _ _ (State.endStep_takes _ _))
  · exact (s.endStep_takes _).mono (by omega)

theorem State.limitExpires_takes (s : State) (l : LaneId) (st : StepRecord) :
    Takes 12 s (s.limitExpires l st) := by
  unfold State.limitExpires; dsimp only
  exact (((s.setLane_takes _ _).trans (State.recordFault_takes _ _ _)).trans
    (State.act_takes _ _ _ _ (State.endStep_takes _ _))).mono (by omega)

theorem State.compareAt_takes (s : State) (l : LaneId) (st : StepRecord) (v : Lines) :
    Takes 12 s (s.compareAt l st v) := by
  unfold State.compareAt; dsimp only; repeat' split
  · exact (s.setLane_takes _ _).mono (by omega)
  · exact (((s.setLane_takes _ _).trans (State.recordFault_takes _ _ _)).trans
      (State.act_takes _ _ _ _ ((Takes.refl _).mono (by omega)))).mono (by omega)
  · exact (s.endStep_takes _).mono (by omega)
  · exact (s.setLane_takes _ _).mono (by omega)
  · exact (Takes.refl s).mono (by omega)
  · exact (Takes.refl s).mono (by omega)

theorem State.resumeLane_takes (s : State) (l : LaneId) : Takes 9 s (s.resumeLane l) := by
  unfold State.resumeLane; dsimp only; split
  · exact ((s.setLane_takes _ _).trans (State.beginStep_takes _ _)).mono (by omega)
  · exact ((s.setLane_takes _ _).trans (State.beginStep_takes _ _)).mono (by omega)
  · exact ((s.setLane_takes _ _).trans (State.complete_takes _ _)).mono (by omega)
  · exact ((s.setLane_takes _ _).trans (State.afterHalt_takes _ _)).mono (by omega)

/-! ### Watches and change events -/

theorem State.laneAction_takes (s : State) (w : WatchId) (l : LaneId) (a : LaneAction) :
    Takes 3 s (s.laneAction w l a) := by
  cases a
  · exact s.startLane_takes _ _
  · show Takes 3 s (s.askPause l)
    unfold State.askPause; split
    · exact (s.setLane_takes _ _).mono (by omega)
    · exact (Takes.refl s).mono (by omega)
  · exact s.abortLane_takes _ _

theorem State.watchHit_takes (s : State) (w : WatchId) (d : WatchDef) (p v : Lines) :
    Takes 6 s (s.watchHit w d p v) := by
  unfold State.watchHit
  dsimp only
  have h0 : Takes 0 s (s.setWatch w { s.watch w with hits := saturate 65535 (s.watch w).hits }) :=
    .same rfl rfl
  have h1 (u : State) : Takes 2 u
      (if d.record = true then u.takeRecord (.watchHit w v (p ^^^ v)) else u) := by
    split
    · exact u.takeRecord_takes _
    · exact (Takes.refl u).mono (by omega)
  have h2 (u : State) (n : Nat) : Takes 1 u
      (if d.notify = true then u.raise (.watchHit w) (.count n) else u) := by
    split
    · exact u.raise_takes _ _
    · exact (Takes.refl u).mono (by omega)
  have h3 (u : State) : Takes 3 u
      (match d.laneAction with | some (l, a) => u.laneAction w l a | none => u) := by
    split
    · exact u.laneAction_takes _ _ _
    · exact (Takes.refl u).mono (by omega)
  exact (((h0.trans (h1 _)).trans (h2 _ (saturate 65535 (s.watch w).hits))).trans (h3 _)).trans
    (.same (by rfl) (by rfl))

theorem State.evaluateWatch_takes (s : State) (p v : Lines) (w : WatchId) :
    Takes 6 s (s.evaluateWatch p v w) := by
  unfold State.evaluateWatch
  split
  · split
    · exact s.watchHit_takes _ _ _ _
    · exact (Takes.refl s).mono (by omega)
  · exact (Takes.refl s).mono (by omega)

theorem State.receiverTakes_takes (s : State) (p v : Lines) (r : Receiver) :
    Takes 48 s (s.receiverTakes p v r) := by
  cases r with
  | watchUnit => exact Takes.foldl _ (fun s w => s.evaluateWatch_takes p v w) watchIds s
  | lane l =>
    show Takes 48 s (s.laneTakesChange v l)
    unfold State.laneTakesChange; split
    · exact (s.compareAt_takes _ _ _).mono (by omega)
    · exact (Takes.refl s).mono (by omega)

/-- The sampler takes boundedly many serials, whatever receives its sample. -/
theorem State.takeSample_takes (s : State) (order : List Receiver) :
    Takes 240 s (s.takeSample order) := by
  unfold State.takeSample
  split
  · exact (Takes.refl s).mono (by omega)
  · split
    · exact (Takes.same (by rfl) (by rfl)).mono (by omega)
    · unfold State.deliverSample
      have h := Takes.foldl _ (fun t r => State.receiverTakes_takes t s.sampled s.lineLevels r)
        (deliveryOrder order) { s with sampleAt := s.now, sampled := s.lineLevels }
      rw [(deliveryOrder_perm order).length_eq] at h
      exact (Takes.trans (j := 0) (.same (by rfl) (by rfl)) h).mono (by simp)

theorem State.expireGuard_takes (s : State) : Takes 15 s s.expireGuard := by
  have h : Takes 12 (s.setGuard .expired) _ :=
    Takes.foldl _ (fun t l => State.abortLane_takes t l .abortedGuard) laneIds (s.setGuard .expired)
  have h0 : Takes 0 s (s.setGuard .expired) := .same rfl rfl
  exact ((h0.trans h).trans (State.takeRecord_takes _ _)).trans (State.raise_takes _ _ _)

/-! ### What removes entries -/

/-- Some of the records and entries stay, each with its serial, and no serial is taken. -/
theorem Takes.removed {s t : State} (hr : t.ring.nextSerial = s.ring.nextSerial)
    (hn : t.notices.nextSerial = s.notices.nextSerial)
    (hrs : List.Sublist (t.ring.records.map CaptureRecord.serial)
      (s.ring.records.map CaptureRecord.serial))
    (hns : List.Sublist (t.notices.entries.map NoticeEntry.serial)
      (s.notices.entries.map NoticeEntry.serial)) : Takes 0 s t := fun n _ h => by
  refine ⟨?_, ?_, fun r hm => ?_, fun e hm => ?_⟩
  · unfold Ring.inOrder; rw [hr]; exact serialsInOrder.sublist h.ring hrs
  · unfold NoticeSet.inOrder; rw [hn]; exact serialsInOrder.sublist h.notices hns
  · obtain ⟨r', hm', he⟩ := List.mem_map.1 (hrs.subset (List.mem_map_of_mem hm))
    rw [hr, ← he]; exact h.ringNear r' hm'
  · obtain ⟨e', hm', he⟩ := List.mem_map.1 (hns.subset (List.mem_map_of_mem hm))
    rw [hn, ← he]; exact h.noticesNear e' hm'

end Sys2Proof.Machine
end

