-- ==== Sys2Proof/Laws/Step.lean ====
section
/-! SUPPORT. What a step does, said once: it is the front command's effect, or an idle step, and it always
answers a next state. -/

namespace Sys2Proof.Machine

/-- Every command has a next state in every state: no command stops the block. -/
theorem exec_answers_next (c : Instr) (s : State) : ∃ t : State, exec c s = .next t := by
  cases c <;> exact ⟨_, rfl⟩

/-- A step with a command in front is that command on the queue's rest. -/
theorem step_of_pending {s : State} {c : Instr} {rest : List Instr} (h : s.pending = c :: rest) :
    step s = exec c { s with pending := rest } := by
  unfold step
  rw [h]

/-- A step with nothing in front is an idle step. -/
theorem step_of_empty {s : State} (h : s.pending = []) : step s = idle s := by
  unfold step
  rw [h]

/-- Every step answers a next state. -/
theorem step_answers_next (s : State) : ∃ t : State, step s = .next t := by
  cases hp : s.pending with
  | cons c rest => rw [step_of_pending hp]; exact exec_answers_next _ _
  | nil =>
    rw [step_of_empty hp]
    unfold idle
    split
    · exact ⟨_, rfl⟩
    · exact exec_answers_next _ _
    · exact exec_answers_next _ _

/-- What every command keeps and the idle step keeps, every step keeps. -/
theorem step_cases {s t : State} {P : State → Prop} (h : step s = .next t)
    (hcmd : ∀ c rest, s.pending = c :: rest → exec c { s with pending := rest } = .next t → P t)
    (hidle : s.pending = [] → idle s = .next t → P t) : P t := by
  cases hp : s.pending with
  | nil => exact hidle hp (step_of_empty hp ▸ h)
  | cons c rest => exact hcmd c rest hp (step_of_pending hp ▸ h)

end Sys2Proof.Machine
end

