-- ==== Sys2Proof/Tests/Slice0.lean ====
section
/-!
SUPPORT. The model's own tests: the smoke test of WellFormed, one small step for each command, and for every
statement with hypotheses a concrete state and operands that meet them (`witness_…`).
-/

namespace Sys2Proof.Tests

open Sys2Proof Sys2Proof.Machine

/-! ### Small states -/

/-- The state an outcome holds; the reset state for an outcome that holds none. -/
def nextOf : Host.Outcome State Fault Refusal → State
  | .next t => t
  | .fault _ => State.reset
  | .refused _ => State.reset

/-- The station after reset. -/
def base : State := State.reset

/-- The outside does nothing at the lines. -/
def untouched : Outside := { held := 0, levels := 0 }

/-- The outside holds every line, at the levels `v`. -/
def heldAt (v : Lines) : Outside := { held := BitVec.allOnes 40, levels := v }

/-- A unicast frame of a request with TAG 7. -/
def frameOf (r : Request) (p : List Byte) : Frame :=
  { addressing := .unicast, tag := 7, kind := r.code, payload := p, ended := 0 }

/-- A state with one frame at the head of its queue. -/
def withFrame (s : State) (f : Frame) : State :=
  { s with link := { s.link with inbound := [f] } }

/-- The state after a request has been executed. -/
def done (r : Request) (p : List Byte) (s : State) : State :=
  nextOf (exec r.command (withFrame s (frameOf r p)))

/-- The payload of the reply in the slot. -/
def replyOf (s : State) : List Byte :=
  match s.link.slot with
  | some x => x.reply.payload
  | none => []

/-- The reply payload of a request. -/
def answer (r : Request) (p : List Byte) (s : State) : List Byte := replyOf (done r p s)

/-- What a frame needs to be executed, met by any state with an empty slot and an empty store. -/
theorem frame_executes (r : Request) (p : List Byte) (s : State) (hr : s.resetting = none)
    (hs : s.link.slot = none) (hu : s.link.unicastStore = none)
    (hl : r.lengthOk p.length = true) :
    (withFrame s (frameOf r p)).executes r (frameOf r p) [] := by
  refine ⟨⟨hr, hs, rfl⟩, rfl, ?_, .inl rfl, hl⟩
  simp [Link.isRepeat, frameOf, withFrame, hu]

/-- The same for a broadcast frame of a kind allowed there. -/
theorem broadcast_executes (r : Request) (p : List Byte) (s : State) (hr : s.resetting = none)
    (hs : s.link.slot = none) (hg : s.link.groupStore = none) (ha : r.groupAllowed = true)
    (hl : r.lengthOk p.length = true) :
    (withFrame s { frameOf r p with addressing := .broadcast }).executes r
      { frameOf r p with addressing := .broadcast } [] := by
  refine ⟨⟨hr, hs, rfl⟩, rfl, ?_, .inr ha, hl⟩
  simp [Link.isRepeat, frameOf, withFrame, hg]

/-- A DRIVE step of 5 ticks that compares nothing. -/
def driveStep : StepRecord :=
  { kind := .drive, time := 5, check := .none, onMismatch := .goOn, driveValue := 3, expectValue := 0,
    expectMask := 0 }

/-- A DRIVE step that compares line 0 at its end, and faults where the line is low. -/
def checkStep : StepRecord :=
  { driveStep with check := .atEnd, onMismatch := .halt, expectValue := 1, expectMask := 1 }

/-- A DRIVE step that compares line 0 throughout. -/
def watchStep : StepRecord := { checkStep with check := .throughout, onMismatch := .abort }

/-- An AWAIT step that waits for line 0, with a limit of 5 ticks. -/
def awaitStep : StepRecord :=
  { kind := .await, time := 5, check := .awaitMatch, onMismatch := .goOn, driveValue := 0,
    expectValue := 1, expectMask := 1 }

/-- The last entry of a list: one slot, one pass. -/
def lastEntry : SegmentEntry :=
  { first := 0, count := 1, passes := 1, isEnd := true, mark := true, halt := false, cue := none }

/-- A lane armed with every source, on a list of one entry. -/
def armedLane : Lane :=
  { Lane.cleared with
    state := .armed, segments := [lastEntry], sources := 0xF, startTime := 0, triggerArmed := true }

/-- Lane 0 is armed, its step is `st`, and its page is locked. -/
def armedWith (st : StepRecord) : State :=
  { base with
    slots := [(0, st)], refs := base.refs.set 0 1, lanes := base.lanes.set 0 armedLane }

/-- A lane that runs the step `st`, begun at moment 0. -/
def runningLane (st : StepRecord) : Lane :=
  { armedLane with
    state := .running, triggerArmed := false, position := Position.first,
    runSource := some .request }.withStep st 0

/-- Lane 0 runs the step `st`, at the moment its timer expires; the sample of the moment has been taken. -/
def runningWith (st : StepRecord) : State :=
  { armedWith st with now := 50, sampleAt := 50, lanes := base.lanes.set 0 (runningLane st) }

/-- A lane in another state, on the same list. -/
def laneIn (x : LaneState) (r : ResumePoint) : State :=
  { armedWith driveStep with
    lanes := base.lanes.set 0
      { armedLane with
        state := x, triggerArmed := false, position := Position.first, resumePoint := r } }

/-- A watch on line 0 that records, notifies and starts lane 0. -/
def watchOn (c : WatchCondition) (a : Option (LaneId × LaneAction)) : WatchDef :=
  { mask := 1, pattern := 0, condition := c, oneShot := true, holdoff := 10, record := true,
    notify := true, laneAction := a }

/-- Lane 0 is armed and watch W0 is enabled with a definition; the sample of the moment is to be taken. -/
def watching (d : WatchDef) : State :=
  { armedWith driveStep with
    now := 1
    watches := base.watches.set 0 { state := .enabled, defn := some d, hits := 0, holdoffEnd := none } }

/-- Lane 0 at its opening comparison: the sample of the first microsecond after its settle window. -/
def opening (st : StepRecord) : State := { runningWith st with now := 1, sampleAt := 1 }

/-- Bytes received at moment 0, in no group. -/
def received (bytes : List Byte) : List RxByte :=
  bytes.map fun b => { value := b, received := 0, groups := 0 }

/-- The station in the middle of a frame. -/
def assembling (bytes : List Byte) : State :=
  { base with link := { base.link with assembly := received bytes } }

/-- The reset state in a reset of a cause. -/
def inReset (c : ResetCause) : State := base.heldInReset c

/-- A reply of RESTART or not, on the line since moment 0. -/
def sendingReply (restart : Bool) : State :=
  { base with
    now := 2000
    link := { base.link with
      slot := some { reply := { tag := 7, kind := 0x81, payload := [0] }, requestEnd := 0,
                     sendingSince := some 0, restart := restart } } }

/-- A reply that waits out its delay, answering a frame that ended at moment 0. -/
def waitingReply (now : Moment) : State :=
  { base with
    now := now
    link := { base.link with
      slot := some { reply := { tag := 7, kind := 0x81, payload := [0] }, requestEnd := 0,
                     sendingSince := none, restart := false } } }

/-! ### WellFormed: ill-formed terms are refused -/

theorem test_wf_order_repeats_a_receiver :
    Instr.wellFormed (.changeEvent untouched [.lane 1, .watchUnit, .lane 1]) = false := by decide

theorem test_wf_order_names_each_once :
    Instr.wellFormed (.changeEvent untouched [.lane 1, .watchUnit, .lane 0]) = true := by decide

theorem test_wf_collision_beyond_a_frame :
    Instr.wellFormed (.collision 248 0) = false := by decide

theorem test_wf_collision_at_the_last_byte :
    Instr.wellFormed (.collision 247 0) = true := by decide

theorem test_no_table_word_spells_a_command :
    decodeTableWord 8 0 = none ∧ State.reset.withFetchWord 8 0 = State.reset := ⟨rfl, rfl⟩

/-! ### The byte layouts, by values from the spec -/

/-- Little-endian fields (R1). -/
theorem test_little_endian : leBytes 2 0x1234 = [0x34, 0x12] ∧ leNat [0x34, 0x12] = 0x1234 := by decide

/-- A DRIVE step, time 5, check AT_END, HALT: control 0x25 (R180, FIGURE 5). -/
theorem test_step_record_bytes :
    stepBytes (some checkStep) =
      [0x25, 0x05, 0x00, 0x03, 0, 0, 0, 0, 0x01, 0, 0, 0, 0, 0x01, 0, 0, 0, 0] := by decide

theorem test_step_record_reads_back :
    parseStep [0x25, 0x05, 0x00, 0x03, 0, 0, 0, 0, 0x01, 0, 0, 0, 0, 0x01, 0, 0, 0, 0]
      = some checkStep := by decide

/-- A DRIVE step with hold 0, and one with AWAIT_MATCH, are invalid (R4). -/
theorem test_invalid_steps :
    parseStep ([0x01, 0, 0] ++ List.replicate 15 0) = none
      ∧ parseStep ([0x0D, 1, 0] ++ List.replicate 15 0) = none
      ∧ parseStep (List.replicate 18 0) = none := by decide

/-- Entry: first 16, count 2, 3 passes, END and MARK, no cue (R180, FIGURE 6). -/
theorem test_segment_entry_reads :
    parseEntry [0x10, 0, 0x02, 0, 0x03, 0x03, 0xFF] =
      some { first := 16, count := 2, passes := 3, isEnd := true, mark := true, halt := false,
             cue := none } := by decide

/-- The nine bytes 0x31 to 0x39 give the CRC 0x29B1 (R175). -/
theorem test_crc_check_value :
    crc16 [0x31, 0x32, 0x33, 0x34, 0x35, 0x36, 0x37, 0x38, 0x39] = 0x29B1#16 := by
  decide +kernel

/-- A reply of 6 payload bytes to TAG 31, KIND START, from station 5 (11, FIGURE 12). -/
theorem test_reply_frame_begins_as_figure_12 :
    (Reply.frame 5 { tag := 31, kind := 0xA8, payload := [0, 1, 1, 0, 0, 0] }).take 12
      = [0xC3, 0x00, 0x05, 0x08, 31, 0xA8, 0x00, 0x01, 1, 0, 0, 0]
      ∧ (Reply.frame 5 { tag := 31, kind := 0xA8, payload := [0, 1, 1, 0, 0, 0] }).length = 14 := by
  decide

/-! ### One small step for each command -/

/-- IDENTIFY (R156). -/
theorem test_identify :
    answer .identify [] base =
      [0x00, 0x5A, 0x28, 0x00, 0x01, 1, 0, 40, 4, 8, 0x00, 0x08, 0x00, 0x02, 4, 24] := by decide

theorem test_set_link :
    answer .setLink [5] base = [0, 5] ∧ (done .setLink [5] base).link.replyDelay = 5 := by decide

/-- Groups 3 and 0 make the mask 0x0009; a group twice is refused with its position (R158). -/
theorem test_join_groups :
    answer .joinGroups [3, 0] base = [0, 0x09, 0x00]
      ∧ answer .joinGroups [3, 0, 3] base = [0x03, 2] := by decide

theorem test_link_status_clears_after_reading :
    answer .linkStatus [1] { base with link := { base.link with overrun := 258 } }
        = [0, 0, 0, 2, 1, 0, 0, 0, 0]
      ∧ (done .linkStatus [1] { base with link := { base.link with overrun := 258 } }).link.overrun
        = 0 := by decide

/-- The request frame ended 40 microseconds before its execution (R163). -/
theorem test_read_time :
    answer .readTime [] { base with now := 40, timestamp := 100 } = [0, 100, 0, 0, 0, 60, 0, 0, 0] := by
  decide

/-- SET_TIME of 10 with E = 40 loads 50 and fires the trigger of lane 0, whose start time is 0 (R165). -/
theorem test_set_time :
    answer .setTime [10, 0, 0, 0] { armedWith driveStep with now := 40 } = [0, 50, 0, 0, 0, 1]
      ∧ ((done .setTime [10, 0, 0, 0] { armedWith driveStep with now := 40 }).lane 0).state
        = .running := by decide

theorem test_set_guard :
    answer .setGuard [2, 1] base = [0, 2, 1]
      ∧ (done .setGuard [2, 1] { base with now := 9 }).guard = .running 9
      ∧ (done .setGuard [0, 0] base).guard = .off := by decide

theorem test_restart_marks_its_reply :
    (done .restart [] base).link.slot.map ReplySlot.restart = some true := by decide

theorem test_clear :
    answer .clear [] (runningWith driveStep) = [0, 1]
      ∧ ((done .clear [] (runningWith driveStep)).lane 0).state = .idle
      ∧ (done .clear [] (runningWith driveStep)).slots = [(0, driveStep)] := by decide

theorem test_store_steps :
    answer .storeSteps ([16, 0] ++ stepBytes (some checkStep)) base = [0, 1, 0]
      ∧ (done .storeSteps ([16, 0] ++ stepBytes (some checkStep)) base).slots = [(16, checkStep)] := by
  decide

/-- A locked page refuses the whole run with PAGE_IN_USE and the page (R10). -/
theorem test_store_steps_into_a_locked_page :
    answer .storeSteps ([1, 0] ++ stepBytes (some checkStep)) (armedWith driveStep) = [6, 0, 0] := by
  decide

theorem test_erase_steps :
    answer .eraseSteps [0, 0, 1, 0] { base with slots := [(0, driveStep)] } = [0, 1, 0]
      ∧ (done .eraseSteps [0, 0, 1, 0] { base with slots := [(0, driveStep)] }).slots = [] := by
  decide

theorem test_read_steps :
    answer .readSteps [0, 0, 2] { base with slots := [(1, checkStep)] } =
      [0, 0, 0, 2] ++ List.replicate 18 0 ++ stepBytes (some checkStep) := by decide

/-- Page 0 with count 1 and a step, page 1 empty (R14). -/
theorem test_page_status :
    answer .pageStatus [0, 2] (armedWith driveStep) = [0, 0, 2, 0x81, 0x00] := by decide

/-- Drive L0 with rest level high, sense L8 (R25, R26). -/
theorem test_claim_lines :
    answer .claimLines ([2] ++ [1, 0, 0, 0, 0] ++ [0, 1, 0, 0, 0] ++ [1, 0, 0, 0, 0]) base = [0, 2]
      ∧ (done .claimLines ([2] ++ [1, 0, 0, 0, 0] ++ [0, 1, 0, 0, 0] ++ [1, 0, 0, 0, 0]) base).claim 0
        = .drive 2 true
      ∧ (done .claimLines ([2] ++ [1, 0, 0, 0, 0] ++ [0, 1, 0, 0, 0] ++ [1, 0, 0, 0, 0]) base).claim 8
        = .sense 2 := by decide

theorem test_release_lines :
    answer .releaseLines [2] { base with claims := base.claims.set 39 (.drive 2 true) } = [0, 1]
      ∧ (done .releaseLines [2] { base with claims := base.claims.set 39 (.drive 2 true) }).claim 39
        = .free := by decide

theorem test_read_lines :
    (answer .readLines [] { base with claims := base.claims.set 39 (.drive 0 true) }).take 16 =
      [0, 255, 255, 255, 255, 255, 0, 0, 0, 0, 128, 0, 0, 0, 0, 128] := by decide

theorem test_set_segments :
    answer .setSegments ([0] ++ entryBytes lastEntry) base = [0, 1]
      ∧ ((done .setSegments ([0] ++ entryBytes lastEntry) base).lane 0).segments = [lastEntry] := by
  decide

theorem test_read_segments :
    answer .readSegments [0] (armedWith driveStep) =
      [0, 0, 1, 0, 0xFF, 0, 0, 1, 0, 0, 1, 0, 1, 0x03, 0xFF] := by decide

theorem test_set_lane :
    answer .setLane [3, 0, 7, 23, 1, 1] base = [0, 0xFF]
      ∧ ((done .setLane [3, 0, 7, 23, 1, 1] base).lane 3).options =
        { tick := .us1, settle := 7, checkpoint := some 23, loop := true, record := true } := by
  decide

/-- ARM of lane 0 with REQUEST locks page 0 (R41). -/
theorem test_arm :
    answer .arm [0, 1, 0, 0, 0, 0] { laneIn .idle .none with refs := base.refs } = [0, 1, 0]
      ∧ (done .arm [0, 1, 0, 0, 0, 0] { laneIn .idle .none with refs := base.refs }).refCount 0 = 1 := by
  decide +kernel

/-- START as in FIGURE 12 of the message formats. -/
theorem test_start :
    answer .start [1] (armedWith driveStep) = [0, 1, 1, 0, 0, 0]
      ∧ (done .start [1] (armedWith driveStep)).lane 0 = runningLane driveStep := by decide

theorem test_pause :
    answer .pause [3] (runningWith driveStep) = [0, 3, 4, 5, 0, 0]
      ∧ ((done .pause [3] (runningWith driveStep)).lane 0).pausePending = true := by decide

theorem test_resume :
    answer .resume [1] (laneIn .paused .step) = [0, 1, 6, 0, 0, 0]
      ∧ ((done .resume [1] (laneIn .paused .step)).lane 0).current = some driveStep := by decide

theorem test_stop :
    answer .stop [1] (runningWith driveStep) = [0, 1, 8, 0, 0, 0]
      ∧ ((done .stop [1] (runningWith driveStep)).lane 0).stopRequested = true := by decide

theorem test_abort :
    answer .abort [1] (runningWith driveStep) = [0, 1, 9, 0, 0, 0]
      ∧ ((done .abort [1] (runningWith driveStep)).lane 0).lastResult = .abortedRequest
      ∧ (done .abort [1] (runningWith driveStep)).refCount 0 = 0 := by decide +kernel

/-- Lane 0 at position 0, 1, 0 with 0 of 5 ticks left, source REQUEST (R91). -/
theorem test_lane_status :
    answer .laneStatus [0] (runningWith driveStep) =
      [0, 0, 2, 0, 0, 1, 0, 0, 0, 0, 0, 0, 0, 0, 0, 0, 0x0F, 0, 0, 0, 0, 0, 0, 0] := by decide

/-- W1: L12 low, ENTER, REPEAT, holdoff 20000, NOTIFY and LANE: START of lane 2 (06, the first example). -/
theorem test_set_watch :
    answer .setWatch ([1] ++ [0, 0x10, 0, 0, 0] ++ [0, 0, 0, 0, 0] ++ [0, 1, 0x20, 0x4E, 6, 2, 0]) base
        = [0, 1]
      ∧ ((done .setWatch ([1] ++ [0, 0x10, 0, 0, 0] ++ [0, 0, 0, 0, 0] ++ [0, 1, 0x20, 0x4E, 6, 2, 0])
          base).watch 1).defn =
        some { mask := 0x1000, pattern := 0, condition := .enter, oneShot := false, holdoff := 20000,
               record := false, notify := true, laneAction := some (2, .start) } := by decide

theorem test_enable_watches :
    answer .enableWatches [3, 0] (watching (watchOn .enter none)) = [0, 3, 2, 3, 0, 0, 0, 0, 0, 0] := by
  decide

theorem test_watch_status :
    (answer .watchStatus [] (watching (watchOn .enter none))).take 9 = [0, 2, 0, 0, 0, 0, 0, 0, 0] := by
  decide

theorem test_set_ring :
    answer .setRing [1, 0, 2] base = [0, 0, 1, 0, 2, 0, 0, 1, 0, 0, 0] := by decide

/-- A ring of one record, that of the guard, serial 1 at timestamp 0. -/
theorem test_read_ring :
    answer .readRing [0, 0, 0, 0, 0, 9] (base.takeRecord (.guard 2)) =
      [0, 1, 0, 1, 0] ++ [1, 0, 0, 0, 0, 0, 0, 0, 6, 0x30, 2] ++ List.replicate 15 0 := by decide

theorem test_trim_ring :
    answer .trimRing [1, 0, 0, 0] (base.takeRecord (.guard 2)) = [0, 1, 0, 0, 0, 2, 0, 0, 0] := by
  decide

/-- STATION_RESTARTED stays enabled and its entry stays (R134). -/
theorem test_set_notice_mask :
    answer .setNoticeMask [0, 0] base = [0, 0, 0x00, 0x08] := by decide

/-- After reset POLL lists STATION_RESTARTED with cause POWER, serial 1 (R139). -/
theorem test_poll :
    answer .poll [0, 0, 0, 0, 0] base =
        [0, 0, 1, 1, 0] ++ [1, 0, 0, 0, 11, 0x30, 1, 0, 0, 0, 0]
      ∧ (done .poll [0, 0, 0, 0, 0] base).notices.entries.map NoticeEntry.reported = [true] := by
  decide

/-- A frame whose KIND is no request code is answered BAD_KIND (R151). -/
theorem test_bad_kind :
    replyOf (nextOf (exec .badKind (withFrame base { frameOf .identify [] with kind := 0x05 })))
      = [0x01] := by decide

theorem test_byte_received_begins_a_frame :
    (nextOf (exec (.byteReceived 0xC3 0) base)).link.assembly
      = [{ value := 0xC3, received := 0, groups := 0 }] := by decide

/-- LEN 1 discards the frame, and the 0xC3 in DEST begins another (R143, R145). -/
theorem test_byte_received_bad_len :
    (nextOf (exec (.byteReceived 1 0) (assembling [0xC3, 0xC3, 0]))).link.assembly.map RxByte.value
        = [0xC3, 0, 1]
      ∧ (nextOf (exec (.byteReceived 1 0) (assembling [0xC3, 0xC3, 0]))).link.discarded = 1 := by
  decide

/-- The CRC of an IDENTIFY to station 1 with TAG 7. -/
def identifyCrc : List Byte := crcBytes [0x01, 0x00, 0x02, 0x07, 0x01]

/-- The station before the last byte of that frame. -/
def lastByteWaits : State :=
  assembling ([0xC3, 0x01, 0x00, 0x02, 0x07, 0x01] ++ identifyCrc.take 1)

/-- The last byte of that frame. -/
def lastByte : Byte := identifyCrc.getD 1 0

theorem test_frame_received_queues_the_frame :
    (nextOf (exec (.frameReceived lastByte 0) lastByteWaits)).link.inbound = [frameOf .identify []] := by
  decide +kernel

/-- A true frame whose SYNC was swallowed by a false one is found after the CRC failure (R145). -/
theorem test_swallowed_frame_is_found :
    let t := nextOf (exec (.byteReceived lastByte 0)
      (assembling ([0xC3, 1, 0, 6, 0xC3, 0x01, 0x00, 0x02, 0x07, 0x01] ++ identifyCrc.take 1)))
    t.link.inbound = [frameOf .identify []] ∧ t.link.discarded = 1 ∧ t.link.assembly = [] := by
  decide +kernel

/-- A false frame found after a CRC failure with LEN out of range is counted again (R145). -/
theorem test_false_frame_is_counted_again :
    (nextOf (exec (.frameReceived 0 0)
      (assembling [0xC3, 1, 0, 5, 0xC3, 0, 0, 1, 0, 0]))).link.discarded = 2 := by decide +kernel

theorem test_framing_error :
    (nextOf (exec (.framingError 0) (assembling [0xC3]))).link.assembly = []
      ∧ (nextOf (exec (.framingError 0) (assembling [0xC3]))).link.discarded = 1 := by decide

/-- At 115200 bit/s a gap of 348 microseconds is more than 4 character times, one of 347 is not (R144). -/
theorem test_gap_timeout :
    (nextOf (exec .gapTimeout { assembling [0xC3] with now := 348 })).link.assembly = []
      ∧ (nextOf (exec .gapTimeout { assembling [0xC3] with now := 347 })).link.assembly ≠ [] := by
  decide

/-- With reply delay 2 the reply begins 174 microseconds after the frame's end, not 173 (R154). -/
theorem test_reply_delay_expiry :
    (nextOf (exec .replyDelayExpiry (waitingReply 174))).link.sending = true
      ∧ (nextOf (exec .replyDelayExpiry (waitingReply 173))).link.sending = false := by decide

theorem test_reply_end :
    (nextOf (exec .replyEnd (sendingReply false))).link.slot = none
      ∧ (nextOf (exec .replyEnd (sendingReply true))).resetting = some .request := by decide +kernel

/-- The SYNC reads back as another byte (R155). -/
theorem test_collision :
    (nextOf (exec (.collision 0 0xC2) (sendingReply false))).link.collision = 1
      ∧ (nextOf (exec (.collision 0 0xC3) (sendingReply false))).link.collision = 0 := by
  decide +kernel

/-- L0 falls: W0 hits by ENTER, is SPENT, and starts lane 0 (R103, R106). -/
theorem test_change_event :
    let t := nextOf (exec (.changeEvent (heldAt 0) []) (watching (watchOn .enter (some (0, .start)))))
    (t.watch 0).state = .spent ∧ (t.lane 0).state = .running ∧ t.sampled = 0 := by decide

/-- L0 driven low reads low and every other line high, unless the outside holds them (R17, R24). -/
theorem test_line_levels :
    let s : State := { base with claims := base.claims.set 0 (.drive 0 false) }
    s.lineLevels = 0xFFFFFFFFFE#40
      ∧ State.lineLevels { s with outside := heldAt 1 } = 1#40 := by decide

/-- A new drive level shows in the next sample, and an outside that has changed after the sample of a
microsecond shows in the next one (R22). -/
theorem test_sampler :
    let s : State := { base with claims := base.claims.set 0 (.drive 0 false) }
    (nextOf (exec (.changeEvent untouched []) { s with now := 1 })).sampled = 0xFFFFFFFFFE#40
      ∧ (nextOf (exec (.changeEvent (heldAt 1) []) s)).sampled = BitVec.allOnes 40
      ∧ (nextOf (exec (.changeEvent (heldAt 1) []) s)).lineLevels = 1#40 := by decide

/-- The opening comparison of an AWAIT step at the first sample after its settle window (R53). -/
theorem test_opening_comparison :
    ((nextOf (exec (.openingComparison 0) { opening awaitStep with sampled := 0 })).lane
        0).checking = true
      ∧ ((nextOf (exec (.openingComparison 0) (opening awaitStep))).lane 0).state
        = .idle := by decide

/-- The hold of the last step of the last entry expires: the run is COMPLETED (R68, R79). -/
theorem test_hold_expiry :
    ((nextOf (exec (.holdExpiry 0) (runningWith driveStep))).lane 0).lastResult = .completed
      ∧ (nextOf (exec (.holdExpiry 0) (runningWith driveStep))).refCount 0 = 0 := by decide +kernel

/-- An AT_END step with HALT that finds line 0 low halts the lane at its entry's completion (R55, R66). -/
theorem test_hold_expiry_faults :
    ((nextOf (exec (.holdExpiry 0) { runningWith checkStep with sampled := 0 })).lane 0).state = .halted
      ∧ ((nextOf (exec (.holdExpiry 0) { runningWith checkStep with sampled := 0 })).lane 0).resumePoint
        = .completion := by decide

theorem test_await_timeout :
    ((nextOf (exec (.awaitTimeout 0) { runningWith awaitStep with sampled := 0 })).lane 0).faultCount = 1
      ∧ ((nextOf (exec (.awaitTimeout 0) { runningWith awaitStep with sampled := 0 })).lane 0).state
        = .idle := by decide

theorem test_time_trigger :
    ((nextOf (exec (.timeTrigger 0) (armedWith driveStep))).lane 0).runSource = some .time := by decide

theorem test_holdoff_expiry :
    ((nextOf (exec (.holdoffExpiry 3)
      { base with
        watches := base.watches.set 3 { Watch.cleared with holdoffEnd := some 0 } })).watch 3).holdoffEnd
      = none := by decide

/-- The guard expires after 2 ms and aborts lane 0 (R168). -/
theorem test_guard_expiry :
    (nextOf (exec .guardExpiry { runningWith driveStep with
        now := 2000, guardPeriod := 2, guard := .running 0 })).guard = .expired
      ∧ ((nextOf (exec .guardExpiry { runningWith driveStep with
        now := 2000, guardPeriod := 2, guard := .running 0 })).lane 0).lastResult = .abortedGuard := by
  decide

theorem test_power_reset_and_reset_pin :
    (nextOf (exec .powerReset base)).resetting = some .power
      ∧ (nextOf (exec .resetPin base)).resetting = some .pin := by decide

theorem test_full_reset_end :
    let t := nextOf (exec (.fullResetEnd 31 3 (heldAt 5)) (inReset .pin))
    t.link.address = 31 ∧ t.sampled = 5
      ∧ t.notices.entries.map NoticeEntry.detail = [.cause .pin] := by decide

/-- An idle step passes a microsecond, or takes the event that is due: the sample, or a timer. -/
theorem test_idle_steps :
    (nextOf (step base)).now = 1 ∧ (nextOf (step { base with now := 1 })).sampleAt = 1
      ∧ ((nextOf (step { runningWith driveStep with guard := .off })).lane 0).state = .idle := by decide

/-! ### Every statement's hypotheses are met: queue, resets, link -/

theorem witness_IdleStepPassesTime :
    base.pending = [] ∧ base.dueEvents = [] ∧ base.resetting = none
      ∧ (inReset .power).pending = [] ∧ (inReset .power).dueEvents = []
      ∧ (inReset .pin).pending = [] ∧ (inReset .pin).dueEvents = []
      ∧ (inReset .request).pending = [] ∧ (inReset .request).dueEvents = [] := by decide

theorem witness_IdleStepTakesADueEvent :
    (runningWith driveStep).pending = [] ∧ (runningWith driveStep).dueEvents = [.holdExpiry 0] := by
  decide

theorem witness_TimerEventsActExactlyWhenDue :
    Instr.holdExpiry 0 ∉ ({ runningWith driveStep with now := 49, sampleAt := 49 } : State).dueEvents
      ∧ Instr.holdExpiry 0 ∈ (runningWith driveStep).dueEvents
      ∧ ({ base with now := 1 } : State).dueEvents = [.changeEvent untouched (Config.freeOrder 0)] :=
  ⟨by decide, by decide, rfl⟩

theorem witness_ResetCausesHoldTheStation :
    base.resetting = none ∧ (inReset .request).resetting = some .request
      ∧ (inReset .power).resetting = some .power ∧ (inReset .pin).resetting = some .pin := by decide

theorem witness_FullResetEndSetsEveryBlock (c : ResetCause) : (inReset c).resetting = some c := rfl

theorem witness_OnlyResetEventsActInAReset :
    (inReset .power).resetting ≠ none ∧ Instr.identify ≠ .powerReset ∧ Instr.identify ≠ .resetPin
      ∧ (∀ adr spd o, Instr.identify ≠ .fullResetEnd adr spd o) ∧ base.resetting = none :=
  ⟨by decide, by decide, by decide, by simp, rfl⟩

/-- While a reply is on the line no character is looked at; after its end one that began before it is not. -/
theorem witness_ByteReceived_not_looked_at :
    (sendingReply false).resetting = none ∧ (sendingReply false).link.listens 2000 = false
      ∧ ({ base.link with listenFrom := 5 } : Link).listens 4 = false
      ∧ ({ base.link with listenFrom := 5 } : Link).listens 5 = true := by decide

/-- The gap passes 4 character times between 347 and 348 microseconds (R144). -/
theorem witness_ByteReceived_after_a_gap :
    (assembling [0xC3]).link.listens 348 = true ∧ (assembling [0xC3]).link.gapPassed 348 = true
      ∧ (assembling [0xC3]).link.gapPassed 347 = false := by decide

theorem witness_ByteReceived_in_hunt :
    base.resetting = none ∧ base.link.listens 0 = true ∧ base.link.gapPassed 0 = false
      ∧ base.link.assemblyOk ∧ base.link.assembly = [] :=
  ⟨rfl, rfl, rfl, .inl rfl, rfl⟩

/-- Frames in assembly of 1, 2, 3 bytes, and one of LEN 2 that lacks two bytes and one that lacks one. -/
theorem witness_ByteReceived_in_a_frame :
    ∀ p ∈ [[0xC3], [0xC3, 1], [0xC3, 1, 0], [0xC3, 1, 0, 2], [0xC3, 1, 0, 2, 7, 1],
        [0xC3, 1, 0, 242]],
      (assembling p).link.listens 0 = true ∧ (assembling p).link.gapPassed 0 = false
        ∧ (assembling p).link.assemblyOk
        ∧ (4 ≤ p.length → p.length + 1 < (assembling p).link.lenByte + 6) := by
  unfold Link.assemblyOk; decide

theorem witness_ByteReceived_len_bounds :
    (2 : Byte).toNat = 2 ∧ (242 : Byte).toNat = 242 ∧ (1 : Byte).toNat < 2 ∧ 242 < (243 : Byte).toNat := by
  decide

/-- LEN out of range with 0xC3 as DEST, as SRC, and in neither. -/
theorem witness_DiscardedFrames_bad_len :
    ∀ p ∈ [[0xC3, 0xC3, 0], [0xC3, 0, 0xC3], [0xC3, 0, 0]],
      (assembling p).resetting = none ∧ (assembling p).link.listens 0 = true
        ∧ (assembling p).link.gapPassed 0 = false ∧ (assembling p).link.assembly.length = 3 := by
  decide

/-- The same hypotheses with a wrong CRC where the bytes after the SYNC hold a LEN out of range. -/
theorem witness_DiscardedFrames_looked_at_again :
    let s := assembling [0xC3, 1, 0, 5, 0xC3, 0, 0, 1, 0, 0]
    s.resetting = none ∧ s.link.listens 0 = true ∧ s.link.gapPassed 0 = false ∧ s.link.assemblyOk
      ∧ 4 ≤ s.link.assembly.length ∧ s.link.assembly.length + 1 = s.link.lenByte + 6
      ∧ frameCrcOk (s.link.assembly.map RxByte.value ++ [0]) = false ∧ 3 ≤ [0xC3, 0, 0].length := by
  unfold Link.assemblyOk; decide +kernel

/-- A frame of LEN 2 with a wrong CRC: no 0xC3 after its SYNC, and one that begins less than a frame. -/
theorem witness_DiscardedFrames_bad_crc :
    ∀ p ∈ [[0xC3, 1, 0, 2, 7, 1, 0], [0xC3, 1, 0, 2, 7, 0xC3, 0]],
      (assembling p).resetting = none ∧ (assembling p).link.listens 0 = true
        ∧ (assembling p).link.gapPassed 0 = false ∧ (assembling p).link.assemblyOk
        ∧ 4 ≤ (assembling p).link.assembly.length
        ∧ (assembling p).link.assembly.length + 1 = (assembling p).link.lenByte + 6
        ∧ frameCrcOk ((assembling p).link.assembly.map RxByte.value ++ [0]) = false
        ∧ Link.assemblyOk { (assembling p).link with
            assembly := ((assembling p).link.assembly.tail ++ received [0]).dropWhile
              fun x => x.value != 0xC3 } := by
  unfold Link.assemblyOk; decide +kernel

/-- A whole frame to the station; the same with a full queue, and with the guard running. -/
theorem witness_WholeFrameIsJudgedByItsDest :
    lastByteWaits.resetting = none ∧ lastByteWaits.link.listens 0 = true
      ∧ lastByteWaits.link.gapPassed 0 = false ∧ lastByteWaits.link.assemblyOk
      ∧ 4 ≤ lastByteWaits.link.assembly.length
      ∧ lastByteWaits.link.assembly.length + 1 = lastByteWaits.link.lenByte + 6
      ∧ frameCrcOk (lastByteWaits.link.assembly.map RxByte.value ++ [lastByte]) = true := by
  unfold Link.assemblyOk; decide +kernel

theorem witness_FramingErrorAndGapDiscard :
    base.resetting = none ∧ base.link.assembly = [] ∧ (sendingReply false).link.listens 0 = false
      ∧ (assembling [0xC3]).link.listens 0 = true ∧ (assembling [0xC3]).link.assembly ≠ []
      ∧ (assembling [0xC3]).link.assembly.getLast? = some { value := 0xC3, received := 0, groups := 0 } := by
  decide

/-- Reply delay 2 at 115200 bit/s: 20000000 bit-microseconds are reached at 174 microseconds (R154). -/
theorem witness_ReplyBeginsAfterItsDelay :
    (waitingReply 174).resetting = none
      ∧ (waitingReply 174).link.slot.map ReplySlot.sendingSince = some none
      ∧ (waitingReply 174).link.replyDelay.toNat * 10 * 1000000
          ≤ 174 * Config.bitRate (waitingReply 174).link.rate
      ∧ ¬ (waitingReply 173).link.replyDelay.toNat * 10 * 1000000
          ≤ 173 * Config.bitRate (waitingReply 173).link.rate
      ∧ (List.replicate 240 (0 : Byte)).length ≤ 240 := by decide +kernel

/-- A reply of one byte holds the line for 9 character times; the SYNC is sent as 0xC3. -/
theorem witness_ReplyEndAndCollisionReleaseTheLine :
    ∀ restart, (sendingReply restart).resetting = none
      ∧ (sendingReply restart).link.slot.map ReplySlot.sendingSince = some (some 0)
      ∧ (sendingReply restart).link.slot.map ReplySlot.restart = some restart
      ∧ (1 + 8) * 10 * 1000000 ≤ 2000 * Config.bitRate (sendingReply restart).link.rate
      ∧ (Reply.frame 1 { tag := 7, kind := 0x81, payload := [0] })[0]? = some 0xC3
      ∧ (0 + 1) * 10 * 1000000 ≤ 2000 * Config.bitRate (sendingReply restart).link.rate := by
  decide

/-- An IDENTIFY to the station, repeated. -/
def repeated : State :=
  { withFrame base (frameOf .identify []) with
    link := { (withFrame base (frameOf .identify [])).link with
      unicastStore := some { tag := 7, kind := 0x01, reply := { tag := 7, kind := 0x81, payload := [0] } }
      groupStore := some (7, 0x2B) } }

theorem witness_RepeatsExecuteNothing_unicast :
    repeated.atHead (frameOf .identify []) [] ∧ takesKind .identify (frameOf .identify []).kind
      ∧ (frameOf .identify []).isUnicast ∧ (frameOf .identify []).tag ≠ 0
      ∧ repeated.link.unicastStore.map StoredReply.tag = some 7
      ∧ repeated.link.unicastStore.map StoredReply.kind = some 0x01 :=
  ⟨⟨rfl, rfl, rfl⟩, .inl ⟨.identify, rfl, rfl⟩, rfl, by decide, rfl, rfl⟩

/-- A broadcast STOP. -/
def stopFrame : Frame := { frameOf .stop [1] with addressing := .broadcast }

theorem witness_RepeatsExecuteNothing_group :
    (withFrame repeated stopFrame).atHead stopFrame [] ∧ takesKind .stop stopFrame.kind
      ∧ ¬ stopFrame.isUnicast ∧ stopFrame.tag ≠ 0
      ∧ (withFrame repeated stopFrame).link.groupStore = some (stopFrame.tag, stopFrame.kind) :=
  ⟨⟨rfl, rfl, rfl⟩, .inl ⟨.stop, rfl, rfl⟩, by decide, by decide, rfl⟩

/-- A KIND that is no request code; an IDENTIFY with a payload. -/
theorem witness_UnfitFrames_unicast :
    (∀ r : Request, (0x05 : Byte) ≠ r.code)
      ∧ (withFrame base { frameOf .identify [] with kind := 0x05 }).atHead
          { frameOf .identify [] with kind := 0x05 } []
      ∧ (withFrame base { frameOf .identify [] with kind := 0x05 }).link.isRepeat
          { frameOf .identify [] with kind := 0x05 } = false
      ∧ (withFrame base (frameOf .identify [1])).atHead (frameOf .identify [1]) []
      ∧ (withFrame base (frameOf .identify [1])).link.isRepeat (frameOf .identify [1]) = false
      ∧ Request.lengthOk .identify [1].length = false :=
  ⟨fun r => by cases r <;> decide, ⟨rfl, rfl, rfl⟩, rfl, ⟨rfl, rfl, rfl⟩, rfl, rfl⟩

/-- A broadcast IDENTIFY, which no group may carry. -/
theorem witness_UnfitFrames_group :
    (withFrame base { frameOf .identify [] with addressing := .broadcast }).atHead
        { frameOf .identify [] with addressing := .broadcast } []
      ∧ takesKind .identify 0x01
      ∧ ¬ Frame.isUnicast { frameOf .identify [] with addressing := .broadcast }
      ∧ (withFrame base { frameOf .identify [] with addressing := .broadcast }).link.isRepeat
          { frameOf .identify [] with addressing := .broadcast } = false
      ∧ ∀ r : Request, (0x01 : Byte) = r.code →
          r.groupAllowed = false ∨ r.lengthOk 0 = false :=
  ⟨⟨rfl, rfl, rfl⟩, .inl ⟨.identify, rfl, rfl⟩, by decide, rfl, fun r => by cases r <;> decide⟩

theorem witness_DecoderTakesOnlyTheOldestFrame :
    takesKind .identify 0x01 ∧ (waitingReply 0).link.slot ≠ none ∧ base.link.inbound = []
      ∧ (withFrame base (frameOf .poll [])).link.inbound = [frameOf .poll []]
      ∧ ¬ takesKind .identify (frameOf .poll []).kind := by
  refine ⟨.inl ⟨.identify, rfl, rfl⟩, by decide, rfl, rfl, ?_⟩
  rintro (⟨r, h, hk⟩ | ⟨h, _⟩)
  · cases r <;> first | (revert hk; decide) | cases h
  · cases h

/-! ### Every statement's hypotheses are met: requests -/

/-- A request with a payload, sent to a station after reset that holds what `s` holds, is executed. -/
theorem executes (r : Request) (p : List Byte) (s : State)
    (h : s.resetting = none ∧ s.link.slot = none ∧ s.link.unicastStore = none) (hl : r.lengthOk p.length = true) :
    (withFrame s (frameOf r p)).executes r (frameOf r p) [] :=
  frame_executes r p s h.1 h.2.1 h.2.2 hl

theorem witness_ReadsWithoutPayloadAnswer :
    ∀ r ∈ [Request.identify, .readTime, .readLines, .watchStatus],
      (withFrame base (frameOf r [])).executes r (frameOf r []) [] := by
  intro r hr
  refine executes r [] base ⟨rfl, rfl, rfl⟩ ?_
  revert hr; cases r <;> decide

theorem witness_LinesFollowTheClaimMap :
    base.claim 39 = .free
      ∧ ({ base with claims := base.claims.set 0 (.sense 3) } : State).claim 0 = .sense 3
      ∧ ({ base with claims := base.claims.set 39 (.drive 0 true) } : State).claim 39 = .drive 0 true := by
  decide

/-- Slots 2047, 2036 to 2047, and ranges outside the store: count 0, 13, past slot 2047, first 2048. -/
theorem witness_StoreReads_read_steps :
    (∀ p ∈ [[0xFF, 7, 1], [0xF4, 7, 12], [0, 0, 0], [0, 0, 13], [0xFF, 7, 2], [0, 8, 1]],
      (withFrame base (frameOf .readSteps p)).executes .readSteps (frameOf .readSteps p) [])
      ∧ fieldAt [0xFF, 7, 1] 0 2 = 2047 ∧ fieldAt [0xF4, 7, 12] 0 2 + 12 = 2048
      ∧ fieldAt [0, 8, 1] 0 2 = 2048 :=
  ⟨fun p hp => executes _ p base ⟨rfl, rfl, rfl⟩ (by revert p; decide), by decide⟩

/-- Page 127, all pages, and ranges outside the store. -/
theorem witness_StoreReads_page_status :
    (∀ p ∈ [[127, 1], [0, 128], [0, 0], [0, 129], [1, 128], [128, 1]],
      (withFrame base (frameOf .pageStatus p)).executes .pageStatus (frameOf .pageStatus p) [])
      ∧ ∀ p, base.refCount p ≤ 4 := by
  refine ⟨fun p hp => executes _ p base ⟨rfl, rfl, rfl⟩ (by revert p; decide), fun p => ?_⟩
  have h : base.refs.toList = List.replicate 128 0 := rfl
  unfold State.refCount
  rw [h, List.getD_eq_getElem?_getD, List.getElem?_replicate]
  split <;> simp

/-- All 9 records from the oldest; one after serial 1; and requests out of range. -/
theorem witness_RingReads :
    (∀ p ∈ [[0, 0, 0, 0, 0, 9], [1, 1, 0, 0, 0, 1], [2, 0, 0, 0, 0, 1], [0, 0, 0, 0, 0, 0],
        [0, 0, 0, 0, 0, 10]],
      (withFrame (base.takeRecord (.guard 0)) (frameOf .readRing p)).executes .readRing
        (frameOf .readRing p) [])
      ∧ (base.takeRecord (.guard 0)).ring.records
          = [{ serial := 1, stamp := 0, body := .guard 0 }] ++ []
      ∧ atOrBefore 1 (wordAt [1, 1, 0, 0, 0, 1] 1) = true :=
  ⟨fun p hp => executes _ p _ ⟨rfl, rfl, rfl⟩ (by revert p; decide), by decide⟩

theorem witness_LaneReadsAnswer :
    ∀ r ∈ [Request.readSegments, .laneStatus], ∀ p ∈ [[0], [3], [4]],
      (withFrame base (frameOf r p)).executes r (frameOf r p) [] := by
  intro r hr p hp
  refine executes r p base ⟨rfl, rfl, rfl⟩ ?_
  revert hp; revert p; revert hr; cases r <;> decide

theorem witness_LinkRequests :
    (withFrame base (frameOf .setLink [255])).executes .setLink (frameOf .setLink [255]) []
      ∧ ∀ p ∈ [[0], [1], [2]],
        (withFrame base (frameOf .linkStatus p)).executes .linkStatus (frameOf .linkStatus p) [] :=
  ⟨executes _ _ base ⟨rfl, rfl, rfl⟩ rfl,
    fun p hp => executes _ p base ⟨rfl, rfl, rfl⟩ (by revert p; decide)⟩

/-- No group, four groups with G15 last, one above 15 and one twice. -/
theorem witness_LinkRequests_join_groups :
    (∀ p ∈ [[], [0, 1, 2, 15], [16], [5, 5]],
      (withFrame base (frameOf .joinGroups p)).executes .joinGroups (frameOf .joinGroups p) [])
      ∧ (15 < (byteAt [16] 0).toNat) ∧ byteAt [5, 5] 0 = byteAt [5, 5] 1
      ∧ ∀ i, i < 4 → (byteAt [0, 1, 2, 15] i).toNat ≤ 15
          ∧ ∀ j, j < i → byteAt [0, 1, 2, 15] j ≠ byteAt [0, 1, 2, 15] i :=
  ⟨fun p hp => executes _ p base ⟨rfl, rfl, rfl⟩ (by revert p; decide), by decide⟩

/-- A station whose lane 0 is ARMED with an armed trigger, and one with nothing armed. -/
theorem witness_SetTimeLoadsAndJudges :
    (∀ s ∈ [armedWith driveStep, base],
      (withFrame s (frameOf .setTime [10, 0, 0, 0])).executes .setTime (frameOf .setTime [10, 0, 0, 0]) []
        ∧ (withFrame s (frameOf .setTime [10, 0, 0, 0])).lanesOk)
      ∧ atOrBefore ((armedWith driveStep).lane 0).startTime 10 = true
      ∧ (armedWith driveStep).slot ((armedWith driveStep).lane 0).firstSlot = some driveStep := by
  refine ⟨fun s hs => ?_, by decide, by decide⟩
  rcases List.mem_cons.1 hs with rfl | hs
  · exact ⟨executes _ _ _ ⟨rfl, rfl, rfl⟩ rfl, by unfold State.lanesOk Lane.ok; decide⟩
  · rw [List.mem_singleton.1 hs]
    exact ⟨executes _ _ _ ⟨rfl, rfl, rfl⟩ rfl, by unfold State.lanesOk Lane.ok; decide⟩

theorem witness_SetGuardAndRestartAnswer :
    (∀ p ∈ [[0, 0], [1, 0], [255, 255]],
      (withFrame base (frameOf .setGuard p)).executes .setGuard (frameOf .setGuard p) [])
      ∧ (withFrame base (frameOf .restart [])).executes .restart (frameOf .restart []) [] :=
  ⟨fun p hp => executes _ p base ⟨rfl, rfl, rfl⟩ (by revert p; decide),
    executes _ _ base ⟨rfl, rfl, rfl⟩ rfl⟩

/-- CLEAR by unicast and by broadcast. -/
theorem witness_ClearEmptiesTheStation :
    (withFrame (runningWith driveStep) (frameOf .clear [])).executes .clear (frameOf .clear []) []
      ∧ (withFrame base { frameOf .clear [] with addressing := .broadcast }).executes .clear
          { frameOf .clear [] with addressing := .broadcast } [] :=
  ⟨executes _ _ _ ⟨rfl, rfl, rfl⟩ rfl, broadcast_executes _ _ base rfl rfl rfl rfl rfl⟩

/-- A run at slot 2047; runs that begin at 2048 and end past 2047; an invalid record. -/
theorem witness_Store_runs :
    (∀ p ∈ [[0xFF, 7] ++ stepBytes (some driveStep), [0, 8] ++ stepBytes (some driveStep),
        [0xFF, 7] ++ stepBytes (some driveStep) ++ stepBytes (some driveStep),
        [0, 0] ++ stepBytes none],
      (withFrame (armedWith driveStep) (frameOf .storeSteps p)).executes .storeSteps
        (frameOf .storeSteps p) [])
      ∧ fieldAt ([0xFF, 7] ++ stepBytes (some driveStep)) 0 2 = 2047
      ∧ parseStep ((stepBytes (some driveStep)).take 18) = some driveStep
      ∧ parseStep (stepBytes none) = none :=
  ⟨fun p hp => executes _ p _ ⟨rfl, rfl, rfl⟩ (by revert p; decide), by decide⟩

/-- Page 0 is locked, page 127 is not. -/
theorem witness_Store_pages :
    0 < (armedWith driveStep).refCount 0 ∧ (armedWith driveStep).refCount 127 = 0
      ∧ (armedWith driveStep).refCount 1 = 0 := by decide +kernel

/-- A run of all slots, of slot 0 alone, of none, and past the end. -/
theorem witness_Erase_runs :
    ∀ p ∈ [[0, 0, 0, 8], [0, 0, 1, 0], [0, 0, 0, 0], [1, 0, 0, 8], [0, 8, 1, 0]],
      (withFrame (armedWith driveStep) (frameOf .eraseSteps p)).executes .eraseSteps
        (frameOf .eraseSteps p) [] :=
  fun p hp => executes _ p _ ⟨rfl, rfl, rfl⟩ (by revert p; decide)

/-- Lane 4; lane 1 not IDLE; L39 in both sets; L39 owned by lane 0; a claim of L39 by an IDLE lane. -/
theorem witness_Claim :
    (∀ p ∈ [[4] ++ List.replicate 15 0, [0] ++ List.replicate 15 0,
        [1] ++ [0, 0, 0, 0, 128] ++ [0, 0, 0, 0, 128] ++ List.replicate 5 0,
        [1] ++ [0, 0, 0, 0, 128] ++ List.replicate 10 0],
      (withFrame (armedWith driveStep) (frameOf .claimLines p)).executes .claimLines
        (frameOf .claimLines p) [])
      ∧ ((armedWith driveStep).lane 0).state ≠ .idle ∧ ((armedWith driveStep).lane 1).state = .idle
      ∧ (linesAt ([1] ++ [0, 0, 0, 0, 128] ++ List.replicate 10 0) 1).getLsbD 39 = true
      ∧ (linesAt ([1] ++ [0, 0, 0, 0, 128] ++ [0, 0, 0, 0, 128] ++ List.replicate 5 0) 6).getLsbD 39
        = true
      ∧ (({ base with claims := base.claims.set 39 (.drive 0 true) } : State).claim 39).owner
        = some 0 :=
  ⟨fun p hp => executes _ p _ ⟨rfl, rfl, rfl⟩ (by revert p; decide), by decide⟩

theorem witness_Release :
    ∀ p ∈ [[4], [0], [3]],
      (withFrame (armedWith driveStep) (frameOf .releaseLines p)).executes .releaseLines
        (frameOf .releaseLines p) [] :=
  fun p hp => executes _ p _ ⟨rfl, rfl, rfl⟩ (by revert p; decide)

/-- No entry; one good entry; an entry of count 0; an entry without END at the end; a lane that is not IDLE;
and lane 4. -/
theorem witness_SetSegments :
    (∀ p ∈ [[1], [1] ++ entryBytes lastEntry, [1] ++ entryBytes { lastEntry with count := 0 },
        [1] ++ entryBytes { lastEntry with isEnd := false },
        [0] ++ entryBytes lastEntry, [4] ++ entryBytes lastEntry],
      (withFrame (armedWith driveStep) (frameOf .setSegments p)).executes .setSegments
        (frameOf .setSegments p) [])
      ∧ parseEntry (entryBytes { lastEntry with count := 0 }) = none
      ∧ parseEntry (entryBytes { lastEntry with isEnd := false })
        = some { lastEntry with isEnd := false } :=
  ⟨fun p hp => executes _ p _ ⟨rfl, rfl, rfl⟩ (by revert p; decide), by decide⟩

/-- Each check of SET_LANE failing alone at the first value out of range, and all passing at the last. -/
theorem witness_SetLane :
    ∀ p ∈ [[4, 0, 0, 0, 0, 0], [0, 0, 0, 0, 0, 0], [1, 4, 0, 0, 0, 0], [1, 3, 0, 24, 0, 0],
        [1, 3, 0, 254, 0, 0], [1, 3, 0, 23, 2, 0], [1, 3, 0, 255, 1, 2], [1, 3, 255, 23, 1, 1]],
      (withFrame (armedWith driveStep) (frameOf .setLane p)).executes .setLane (frameOf .setLane p) [] :=
  fun p hp => executes _ p _ ⟨rfl, rfl, rfl⟩ (by revert p; decide)

/-- ARM of an IDLE lane with a valid list on filled slots: sources 1 to 15, none, and a bit above 3. -/
theorem witness_Arm :
    (∀ p ∈ [[0, 1, 0, 0, 0, 0], [0, 15, 1, 0, 0, 0], [0, 0, 0, 0, 0, 0], [0, 16, 0, 0, 0, 0],
        [0, 8, 0, 0, 0, 0], [0, 8, 0xFF, 0xFF, 0xFF, 0x7F], [0, 8, 0, 0, 0, 0x80], [4, 1, 0, 0, 0, 0]],
      (withFrame (laneIn .idle .none) (frameOf .arm p)).executes .arm (frameOf .arm p) [])
      ∧ ((laneIn .idle .none).lane 0).state = .idle
      ∧ listValid 0 ((laneIn .idle .none).lane 0).segments = true
      ∧ (laneIn .idle .none).lowestEmpty ((laneIn .idle .none).lane 0).segments = none
      ∧ (wordAt [0, 8, 0xFF, 0xFF, 0xFF, 0x7F] 2).toNat = 2147483647
      ∧ (wordAt [0, 8, 0, 0, 0, 0x80] 2).toNat = 2147483648 :=
  ⟨fun p hp => executes _ p _ ⟨rfl, rfl, rfl⟩ (by revert p; decide), by decide⟩

/-- A lane that is not IDLE, an invalid list, and a list that reaches an EMPTY slot. -/
theorem witness_Arm_refused :
    ((laneIn .armed .none).lane 0).state ≠ .idle ∧ listValid 0 (base.lane 0).segments = false
      ∧ ({ laneIn .idle .none with slots := [] } : State).slot 0 = none
      ∧ (∃ e ∈ ((laneIn .idle .none).lane 0).segments, 0 ∈ e.slots) :=
  ⟨by decide, by decide, rfl, lastEntry, by decide, by decide⟩

/-- Lane sets 0 and 16 for the refusal, 1 and 15 for the rest, by unicast and by broadcast. -/
theorem witness_LaneSets :
    ∀ r ∈ [Request.start, .pause, .resume, .stop, .abort], ∀ p ∈ [[0], [16], [1], [15]],
      (withFrame (runningWith driveStep) (frameOf r p)).executes r (frameOf r p) []
        ∧ (withFrame base { frameOf r p with addressing := .broadcast }).executes r
            { frameOf r p with addressing := .broadcast } [] := by
  intro r hr p hp
  have h : r.groupAllowed = true ∧ r.lengthOk p.length = true := by
    revert hp; revert p; revert hr; cases r <;> decide
  exact ⟨executes r p _ ⟨rfl, rfl, rfl⟩ h.2, broadcast_executes r p base rfl rfl rfl h.1 h.2⟩

/-- Lane 0 in each state, ARMED with REQUEST and without. -/
theorem witness_StartActsByLaneState :
    ((armedWith driveStep).lane 0).state = .armed
      ∧ ((armedWith driveStep).lane 0).sources.getLsbD 0 = true
      ∧ (armedWith driveStep).slot ((armedWith driveStep).lane 0).firstSlot = some driveStep
      ∧ (0xE : BitVec 4).getLsbD 0 = false ∧ (base.lane 0).state = .idle
      ∧ ((runningWith driveStep).lane 0).state = .running
      ∧ ((laneIn .paused .step).lane 0).state = .paused
      ∧ ((laneIn .halted .step).lane 0).state = .halted
      ∧ (1 : Byte).getLsbD 0 = true ∧ (1 : Byte).getLsbD 1 = false := by decide

/-- Every paused or halted lane of the set holds resume point STEP; and lane 0 halted at each other point. -/
theorem witness_ResumeGoesOnByTheResumePoint :
    (∀ x ∈ [LaneState.paused, .halted], ∀ l,
      ((laneIn x .step).lane l).state = .paused ∨ ((laneIn x .step).lane l).state = .halted →
        ((laneIn x .step).lane l).resumePoint = .step)
      ∧ (∀ r ∈ [ResumePoint.completion, .afterHalt], ((laneIn .halted r).lane 0).state = .halted
        ∧ ((laneIn .halted r).lane 0).resumePoint = r)
      ∧ byteAt [1] 0 ≠ 0 ∧ (byteAt [15] 0).toNat < 16 := by decide

/-- A set of all lanes of which one is halted at each resume point, by unicast. -/
theorem witness_ResumeGoesOnByTheResumePoint_of_several :
    ∀ r ∈ [ResumePoint.step, .completion, .afterHalt],
      (withFrame (laneIn .halted r) (frameOf .resume [15])).executes .resume (frameOf .resume [15]) []
        ∧ ((laneIn .halted r).lane 0).resumePoint = r := by
  intro r hr
  exact ⟨executes _ _ _ ⟨rfl, rfl, rfl⟩ rfl, rfl⟩

/-- Lane 0 halted at its completion goes on while lane 1 of the set is IDLE: RESUMED and NO_EFFECT. -/
theorem test_resume_of_several_lanes :
    answer .resume [3] (laneIn .halted .completion) = [0, 3, 6, 5, 0, 0]
      ∧ ((done .resume [3] (laneIn .halted .completion)).lane 0).lastResult = .completed := by
  decide +kernel

theorem witness_AbortEndsTheRuns :
    ((runningWith driveStep).lane 0).state ≠ .idle ∧ ((runningWith driveStep).lane 1).state = .idle := by
  decide

/-- Each check of SET_WATCH failing at the first value out of range, and all passing at the last. -/
theorem witness_SetWatch :
    ∀ p ∈ [[8] ++ List.replicate 17 0, [7] ++ List.replicate 17 0,
        [7, 1] ++ List.replicate 9 0 ++ [3, 0, 0, 0, 0, 0, 0],
        [7, 1] ++ List.replicate 9 0 ++ [2, 2, 0, 0, 0, 0, 0],
        [7, 1] ++ List.replicate 9 0 ++ [2, 1, 0, 0, 8, 0, 0],
        [7, 1] ++ List.replicate 9 0 ++ [2, 1, 0, 0, 7, 4, 0],
        [7, 1] ++ List.replicate 9 0 ++ [2, 1, 0, 0, 7, 3, 3],
        [7, 1] ++ List.replicate 9 0 ++ [2, 1, 255, 255, 7, 3, 2],
        [7, 1] ++ List.replicate 9 0 ++ [2, 1, 0, 0, 3, 255, 255]],
      (withFrame base (frameOf .setWatch p)).executes .setWatch (frameOf .setWatch p) []
        ∧ (p.length = 18) :=
  fun p hp => ⟨executes _ p base ⟨rfl, rfl, rfl⟩ (by revert p; decide), by revert p; decide⟩

/-- An empty set, enable 2, and W7 alone, enabled and disabled. -/
theorem witness_EnableWatches :
    ∀ p ∈ [[0, 0], [1, 2], [128, 1], [128, 0]],
      (withFrame (watching (watchOn .enter none)) (frameOf .enableWatches p)).executes .enableWatches
        (frameOf .enableWatches p) [] :=
  fun p hp => executes _ p _ ⟨rfl, rfl, rfl⟩ (by revert p; decide)

/-- Policy 2; thresholds 0 and 513; thresholds 1 and 512. -/
theorem witness_SetRing :
    ∀ p ∈ [[2, 1, 0], [0, 0, 0], [1, 1, 2], [1, 1, 0], [1, 0, 2]],
      (withFrame base (frameOf .setRing p)).executes .setRing (frameOf .setRing p) [] :=
  fun p hp => executes _ p base ⟨rfl, rfl, rfl⟩ (by revert p; decide)

/-- A trim through serial 1 of a ring that holds serials 1 and 2. -/
theorem witness_TrimRing :
    (withFrame ((base.takeRecord (.guard 0)).takeRecord (.guard 1)) (frameOf .trimRing [1, 0, 0, 0])).executes
        .trimRing (frameOf .trimRing [1, 0, 0, 0]) []
      ∧ ((base.takeRecord (.guard 0)).takeRecord (.guard 1)).ring.records
          = [{ serial := 1, stamp := 0, body := .guard 0 }]
            ++ [{ serial := 2, stamp := 0, body := .guard 1 }]
      ∧ atOrBefore 1 (wordAt [1, 0, 0, 0] 0) = true ∧ atOrBefore 2 (wordAt [1, 0, 0, 0] 0) = false :=
  ⟨executes _ _ _ ⟨rfl, rfl, rfl⟩ rfl, by decide⟩

/-- Masks 0x0FFF, 0 and 0x1000. -/
theorem witness_SetNoticeMask :
    (∀ p ∈ [[0xFF, 0x0F], [0, 0], [0, 0x10]],
      (withFrame base (frameOf .setNoticeMask p)).executes .setNoticeMask (frameOf .setNoticeMask p) [])
      ∧ fieldAt [0, 0x10] 0 2 = 4096 ∧ fieldAt [0xFF, 0x0F] 0 2 = 4095 :=
  ⟨fun p hp => executes _ p base ⟨rfl, rfl, rfl⟩ (by revert p; decide), by decide⟩

/-- Valid bytes 0, 1 and 2. -/
theorem witness_Poll :
    ∀ p ∈ [[1, 0, 0, 0, 0], [1, 0, 0, 0, 1], [1, 0, 0, 0, 2]],
      (withFrame base (frameOf .poll p)).executes .poll (frameOf .poll p) [] :=
  fun p hp => executes _ p base ⟨rfl, rfl, rfl⟩ (by revert p; decide)

/-! ### Every statement's hypotheses are met: ring, notices, timers, invariants -/

/-- A ring of 512 records under a policy. -/
def fullRing (p : RingPolicy) : State :=
  { base with
    ring :=
      { base.ring with
        policy := p
        records := List.replicate 512 { serial := 1, stamp := 0, body := .guard 0 } } }

/-- Below 512, one below the threshold, and at 512 under both policies. -/
theorem witness_RingTakesARecord :
    base.ring.records.length < 512 ∧ ({ base.ring with threshold := 1 } : Ring).threshold = 0 + 1
      ∧ (∀ p, 512 ≤ (fullRing p).ring.records.length ∧ (fullRing p).ring.policy = p
        ∧ (fullRing p).ring.records =
          { serial := 1, stamp := 0, body := .guard 0 }
            :: List.replicate 511 { serial := 1, stamp := 0, body := .guard 0 }) := by
  refine ⟨by decide, rfl, fun p => ⟨?_, rfl, rfl⟩⟩
  exact (List.length_replicate (n := 512)).ge

/-- A masked kind; an enabled kind with no entry; STATION_RESTARTED with its entry in the set. -/
theorem witness_NoticeSetTakesANotice :
    ({ base.notices with mask := 0x0800 } : NoticeSet).mask.getLsbD (NoticeKey.ringLevel).kindCode = false
      ∧ NoticeKey.ringLevel ≠ .stationRestarted
      ∧ base.notices.mask.getLsbD (NoticeKey.ringLevel).kindCode = true
      ∧ (∀ e ∈ base.notices.entries, e.key ≠ .ringLevel)
      ∧ base.notices.entries =
        [] ++ { serial := 1, key := .stationRestarted, count := 1, detail := .cause .power,
                reported := false } :: [] := by decide

/-- The hold of a step that compares nothing, of one whose comparison matches at its end, and of one whose
settle is not smaller than its hold. -/
theorem witness_HoldExpiryEndsTheStep :
    (runningWith driveStep).timerRunsOut 0 driveStep 50 ∧ driveStep.kind = .drive
      ∧ driveStep.check ≠ .atEnd
      ∧ (runningWith checkStep).timerRunsOut 0 checkStep 50
      ∧ checkStep.off (runningWith checkStep).sampled = 0
      ∧ ((runningWith checkStep).lane 0).settleEnd = some 0 := by decide

/-- The entry of lane 0 that completes cues lane 1, which is ARMED with every source, or IDLE. -/
def cueing (x : LaneState) : State :=
  { runningWith driveStep with
    lanes :=
      (base.lanes.set 0
        { runningLane driveStep with segments := [{ lastEntry with cue := some 1 }] }).set 1
        { armedLane with state := x } }

theorem witness_CueStartsAnArmedLane :
    ∀ x ∈ [LaneState.armed, .idle],
      (cueing x).timerRunsOut 0 driveStep 50 ∧ driveStep.kind = .drive ∧ driveStep.check ≠ .atEnd
        ∧ ((cueing x).lane 0).endsEntry
        ∧ (((cueing x).lane 0).entryAt ((cueing x).lane 0).position.entry).cue = some 1
        ∧ (1 : LaneId) ≠ 0 ∧ ((cueing x).lane 1).state = x
        ∧ ((cueing x).lane 1).sources.getLsbD 2 = true
        ∧ (cueing x).slot ((cueing x).lane 1).firstSlot = some driveStep := by decide

/-- A failed AT_END comparison at the end of a hold. -/
theorem witness_Fault_at_end :
    State.faults { runningWith checkStep with sampled := 0 } (.holdExpiry 0) 0 checkStep
      (.stepFault 0 Position.first .atEnd 0 1) { runningWith checkStep with sampled := 0 } :=
  .inl ⟨50, 0, rfl, rfl, ⟨rfl, rfl, rfl, rfl, by decide⟩, rfl, rfl, rfl, by decide, by decide, rfl⟩

/-- The limit of an AWAIT step. -/
theorem witness_Fault_await :
    State.faults { runningWith awaitStep with sampled := 0 } (.awaitTimeout 0) 0 awaitStep
      (.awaitTimeout 0 Position.first .awaitMatch 0 1) { runningWith awaitStep with sampled := 0 } :=
  .inr (.inl ⟨50, rfl, rfl, ⟨rfl, rfl, rfl, rfl, by decide⟩, rfl, rfl, rfl⟩)

/-- Lane 0 at its opening comparison with the sample `v`. -/
def openingAt (st : StepRecord) (v : Lines) : State := { opening st with sampled := v }

theorem witness_compares_at_the_opening (v : Lines) :
    ∀ st ∈ [watchStep, awaitStep],
      (openingAt st v).compares (.openingComparison 0) 0 st v
        ((openingAt st v).setLane 0 { (openingAt st v).lane 0 with opened := true }) := by
  intro st hst
  have h : st.check = .throughout ∨ st.check = .awaitMatch := by revert st; decide
  have ht : ((openingAt st v).lane 0).timer = some 50 := by
    rcases List.mem_cons.1 hst with rfl | hst
    · rfl
    · rw [List.mem_singleton.1 hst]; rfl
  refine ⟨rfl, rfl, rfl, h, .inl ⟨rfl, rfl, rfl, rfl, ⟨0, rfl, Nat.one_pos⟩, fun due hd => ?_, rfl⟩⟩
  rw [ht] at hd
  cases hd
  exact (show (1 : Nat) ≤ 50 by decide)

/-- A failed THROUGHOUT comparison at the opening. -/
theorem witness_Fault_throughout :
    State.faults (openingAt watchStep 0) (.openingComparison 0) 0 watchStep
      (.stepFault 0 Position.first .throughout 0 1)
      ((openingAt watchStep 0).setLane 0 { (openingAt watchStep 0).lane 0 with opened := true }) :=
  .inr (.inr ⟨0, witness_compares_at_the_opening 0 watchStep (by decide), rfl, by decide, rfl⟩)

/-- The three on-mismatch actions stand in valid steps of each kind. -/
theorem witness_Fault_actions :
    ∀ m ∈ [Mismatch.goOn, .halt, .abort],
      StepRecord.valid { checkStep with onMismatch := m } = true
        ∧ StepRecord.valid { watchStep with onMismatch := m } = true
        ∧ StepRecord.valid { awaitStep with onMismatch := m } = true := by decide

/-- Lane 0 checks in its step; the sample of the moment is to be taken. -/
def checking (st : StepRecord) : State :=
  { runningWith st with now := 1, sampleAt := 0, lanes := base.lanes.set 0 { runningLane st with checking := true } }

/-- A change event reaches a checking lane, in any order of receivers, with a match and with a failure. -/
theorem witness_compares_at_a_change_event (order : List Receiver) :
    (checking watchStep).compares (.changeEvent (heldAt 1) order) 0 watchStep 1
        ((checking watchStep).withSample (heldAt 1) 1)
      ∧ (checking awaitStep).compares (.changeEvent (heldAt 0) order) 0 awaitStep 0
        ((checking awaitStep).withSample (heldAt 0) 0)
      ∧ watchStep.off 1 = 0 ∧ awaitStep.off 0 ≠ 0 ∧ awaitStep.off 1 = 0 :=
  ⟨⟨rfl, rfl, rfl, .inl rfl,
      .inr ⟨heldAt 1, order, rfl, by decide, rfl, by decide, by decide, rfl⟩⟩,
    ⟨rfl, rfl, rfl, .inr rfl,
      .inr ⟨heldAt 0, order, rfl, by decide, rfl, by decide, by decide, rfl⟩⟩,
    by decide, by decide, by decide⟩

/-- A sample already taken; one equal to the sampled state; and one that is not, with no receiver. -/
theorem witness_SamplesWithoutReceivers :
    base.resetting = none ∧ base.sampleAt = base.now
      ∧ State.lineLevels { base with outside := untouched } = base.sampled
      ∧ State.changesTo { base with now := 1 } (heldAt 0) 0
      ∧ (∀ w, (base.watch w).state ≠ .enabled) ∧ ∀ l, (base.lane l).checking = false := by decide

/-- Two enabled watches and a checking lane, and a change event for all of them. -/
def crowded : State :=
  { checking watchStep with
    watches :=
      ((base.watches.set 0
        { state := .enabled, defn := some (watchOn .enter (some (0, .abort))), hits := 0,
          holdoffEnd := none }).set 7
        { state := .enabled, defn := some (watchOn .enter none), hits := 0, holdoffEnd := none }) }

theorem witness_ChangeEventReachesReceiversInOrder :
    crowded.changesTo (heldAt 0) 0
      ∧ [Receiver.lane 0, .watchUnit, .lane 3, .lane 2, .lane 1].Perm
          [.watchUnit, .lane 0, .lane 1, .lane 2, .lane 3]
      ∧ (crowded.watch 0).state = .enabled ∧ (crowded.watch 7).state = .enabled
      ∧ (crowded.lane 0).checking = true := by decide

/-- The lane's own fault, or the abort of W0, ends the run, as the order of the receivers has it; each watch
hits either way (R96, R102). -/
theorem test_order_of_receivers :
    ∀ p ∈ [([Receiver.lane 0], Result.abortedFault), ([.watchUnit], .abortedWatch)],
      let t := nextOf (exec (.changeEvent (heldAt 0) p.1) crowded)
      (t.lane 0).lastResult = p.2 ∧ (t.watch 0).hits = 1 ∧ (t.watch 7).hits = 1 := by decide +kernel

/-- One enabled watch under each condition and each LANE action; L0 falls from its sampled level. -/
theorem witness_WatchHitActsInOrder :
    ∀ c ∈ [WatchCondition.enter, .leave, .change],
      ∀ a ∈ [none, some ((0 : LaneId), LaneAction.start), some (0, .pause), some (0, .abort)],
        let s := watching (watchOn c a)
        s.changesTo (heldAt 0) 0 ∧ (∀ l, (s.lane l).checking = false)
          ∧ (s.watch 0).state = .enabled ∧ (s.watch 0).defn = some (watchOn c a)
          ∧ (∀ k, k ≠ 0 → (s.watch k).state ≠ .enabled) ∧ (s.watch 0).holdoffEnd = none
          ∧ (s.lane 0).state = .armed ∧ (s.lane 0).sources.getLsbD 1 = true
          ∧ s.slot (s.lane 0).firstSlot = some driveStep := by decide

/-- The three conditions on a fall of L0 to the pattern: ENTER and CHANGE are met, LEAVE is not. -/
theorem witness_WatchHit_conditions :
    (watchOn .enter none).met 1 0 = true ∧ (watchOn .leave none).met 1 0 = false
      ∧ (watchOn .change none).met 1 0 = true ∧ (watchOn .leave none).met 0 1 = true
      ∧ (watchOn .enter none).met 0 1 = false ∧ (watchOn .change none).met 2 0 = false := by decide

theorem witness_TimeTriggerAndHoldoffExpiry :
    (armedWith driveStep).resetting = none ∧ ((armedWith driveStep).lane 0).state = .armed
      ∧ ((armedWith driveStep).lane 0).triggerArmed = true
      ∧ ((armedWith driveStep).lane 0).sources.getLsbD 3 = true
      ∧ (armedWith driveStep).timestamp = ((armedWith driveStep).lane 0).startTime
      ∧ (armedWith driveStep).slot ((armedWith driveStep).lane 0).firstSlot = some driveStep
      ∧ ({ Watch.cleared with holdoffEnd := some 0 } : Watch).holdoffEnd
        = some (armedWith driveStep).timestamp := by decide

/-- A guard of 2 ms that was restarted at moment 0 is due at 2000 microseconds. -/
theorem witness_GuardExpiryAbortsTheLanes :
    (0 : Moment) + ({ base with guardPeriod := 2 } : State).guardPeriod.toNat * 1000 ≤ 2000
      ∧ ¬ (0 : Moment) + ({ base with guardPeriod := 2 } : State).guardPeriod.toNat * 1000 ≤ 1999
      ∧ ({ runningWith driveStep with guard := .running 0 } : State).guard = .running 0
      ∧ ({ runningWith driveStep with guard := .running 0 } : State).resetting = none := by decide

/-- A STOP at a running lane that drives a line leaves it running, outside a reset (the statements
StateChangesOnlyAtItsCommands, LockedPagesDoNotChange and LaneInFlightKeepsItsProgramAndClaim). -/
theorem witness_LaneInFlightKeepsItsProgramAndClaim :
    let s : State := { runningWith driveStep with claims := base.claims.set 0 (.drive 0 true) }
    exec .stop (withFrame s (frameOf .stop [1])) = .next (done .stop [1] s)
      ∧ s.resetting = none ∧ (done .stop [1] s).resetting = none ∧ (s.lane 0).state ≠ .idle
      ∧ ((done .stop [1] s).lane 0).state ≠ .idle ∧ (s.claim 0).owner = some 0 :=
  ⟨rfl, rfl, rfl, by decide, by decide, by decide⟩

/-- The same on a page that the running lane holds locked. -/
theorem witness_StateChangesOnlyAtItsCommands :
    exec .stop (withFrame (runningWith driveStep) (frameOf .stop [1]))
        = .next (done .stop [1] (runningWith driveStep))
      ∧ (runningWith driveStep).resetting = none
      ∧ (done .stop [1] (runningWith driveStep)).resetting = none
      ∧ 0 < (runningWith driveStep).refCount (0 / 16)
      ∧ ((runningWith driveStep).lane 0).state ≠ .idle
      ∧ ((done .stop [1] (runningWith driveStep)).lane 0).state ≠ .idle :=
  ⟨rfl, rfl, rfl, by decide, by decide, by decide⟩

/-- Steps and entries of every kind that come back from their bytes. -/
theorem witness_RecordsAndEntriesRoundTrip :
    (∀ st ∈ [driveStep, checkStep, watchStep, awaitStep, { awaitStep with time := 0 },
        { driveStep with time := 65535, driveValue := BitVec.allOnes 40 }],
      st.valid = true ∧ (stepBytes (some st)).length = 18 ∧ parseStep (stepBytes (some st)) = some st)
      ∧ ∀ e ∈ [lastEntry,
          { first := 2047, count := 1, passes := 255, isEnd := false, mark := false, halt := true,
            cue := some 3 },
          { first := 1792, count := 256, passes := 1, isEnd := true, mark := true, halt := true,
            cue := some 0 }],
        e.fieldsOk = true ∧ (entryBytes e).length = 7 ∧ parseEntry (entryBytes e) = some e := by decide

/-- A state that meets the lane invariants beside the reset state, and a step from it. -/
theorem witness_StepKeepsLanesAndReferences :
    (runningWith driveStep).lanesOk ∧ (runningWith driveStep).refsOk
      ∧ step (runningWith driveStep) = .next (nextOf (step (runningWith driveStep))) := by
  refine ⟨by unfold State.lanesOk Lane.ok; decide, ?_, rfl⟩
  unfold State.refsOk
  decide +kernel

theorem witness_StepKeepsRunsOnFilledSlots :
    (runningWith driveStep).storeOk ∧ (runningWith driveStep).listsOk
      ∧ (runningWith driveStep).positionsOk := by
  refine ⟨by unfold State.storeOk; decide, ?_, ?_⟩
  · unfold State.listsOk; decide
  · unfold State.positionsOk; decide

theorem witness_StepNeverPassesATimer :
    (runningWith driveStep).resetOk ∧ (runningWith driveStep).timingOk := by
  refine ⟨fun h => absurd rfl h, fun _ => .inl rfl,
    fun l => ⟨fun t ht => ?_, fun st e hs hc ho _ _ => ?_⟩⟩
  · have h : ∀ l : LaneId, ((runningWith driveStep).lane l).timer = if l = 0 then some 50 else none := by
      decide
    rw [h] at ht
    split at ht
    · cases ht; decide
    · cases ht
  · have h : ∀ l : LaneId,
        ((runningWith driveStep).lane l).current = if l = 0 then some driveStep else none := by decide
    rw [h] at hc
    split at hc
    · cases hc; cases ho
    · cases hc

theorem witness_StepKeepsRingAndNotices :
    (runningWith driveStep).ring.ok ∧ (runningWith driveStep).notices.ok := by
  unfold Ring.ok NoticeSet.ok; decide

/-- A ring of two records and a notice set of one entry, in serial order within the window of R1. -/
theorem witness_StepKeepsRingAndNotices_in_order :
    let s := (base.takeRecord (.guard 0)).takeRecord (.guard 1)
    s.ring.inOrder ∧ s.notices.inOrder ∧ s.serialsInWindow := by
  refine ⟨?_, ?_, ?_, ?_⟩
  · show serialsInOrder 3 [1, 2]
    simp [serialsInOrder]
  · show serialsInOrder 2 [1]
    simp [serialsInOrder]
  · show ∀ r ∈ [CaptureRecord.mk 1 0 (.guard 0), CaptureRecord.mk 2 0 (.guard 1)],
      atOrBefore r.serial 3 = true
    decide
  · show ∀ e ∈ base.notices.entries, atOrBefore e.serial 2 = true
    decide

theorem witness_StepKeepsTheLink :
    lastByteWaits.link.ok := by
  unfold Link.ok Link.assemblyOk Link.listenOnlyOk
  decide +kernel

end Sys2Proof.Tests
end

/-!
SUPPORT. The decoder's step on whatever frame stands at the head of the queue: it leaves the state as it was
or as the handler leaves it, but for the link blocks (R148 to R152).
-/

namespace Sys2Proof.Machine

/-- The settings of the link that no step of the decoder itself writes: address and rate (R141), groups (R158)
and reply delay (R157). -/
structure Link.SameSettings (k j : Link) : Prop where
  address : k.address = j.address
  rate : k.rate = j.rate
  groups : k.groups = j.groups
  replyDelay : k.replyDelay = j.replyDelay

/-- `t` is what is left of a frame by a handler that takes it from `s`: the handler ran or it did not, and the
link blocks were written with its settings kept. -/
def State.Decoded (h : Handler) (s t : State) : Prop :=
  ∃ u k, (u = s ∨ ∃ f rest, u = (h f (s.popInbound rest)).1) ∧ t = u.setLink k
    ∧ k.SameSettings u.link

variable {s : State} {h : Handler}

theorem State.Decoded.unhandled {k : Link} (hk : k.SameSettings s.link) :
    s.Decoded h (s.setLink k) := ⟨s, k, .inl rfl, rfl, hk⟩

theorem State.Decoded.handled {f : Frame} {rest : List Frame} {k : Link}
    (hk : k.SameSettings (h f (s.popInbound rest)).1.link) :
    s.Decoded h ((h f (s.popInbound rest)).1.setLink k) := ⟨_, k, .inr ⟨f, rest, rfl⟩, rfl, hk⟩

theorem State.Decoded.untouched : s.Decoded h s := .unhandled (k := s.link) ⟨rfl, rfl, rfl, rfl⟩

theorem State.takeUnicast_decoded (r : Request) (f : Frame) (rest : List Frame) :
    s.Decoded h ((s.popInbound rest).takeUnicast r h f) := by
  unfold State.takeUnicast
  split
  · exact .unhandled ⟨rfl, rfl, rfl, rfl⟩
  · split
    · exact .handled ⟨rfl, rfl, rfl, rfl⟩
    · exact .unhandled ⟨rfl, rfl, rfl, rfl⟩

theorem State.takeGroup_decoded (r : Request) (f : Frame) (rest : List Frame) :
    s.Decoded h ((s.popInbound rest).takeGroup r h f) := by
  unfold State.takeGroup
  split
  · exact .unhandled ⟨rfl, rfl, rfl, rfl⟩
  · split
    · exact .handled ⟨rfl, rfl, rfl, rfl⟩
    · exact .unhandled ⟨rfl, rfl, rfl, rfl⟩

/-- All that the decoder's step can leave. -/
theorem decoderStep_decoded (r : Request) (h : Handler) (s : State) :
    s.Decoded h (decoderStep r h s) := by
  unfold decoderStep State.outsideReset
  split
  · dsimp only
    split
    · split
      · unfold State.takeFrame
        split
        · exact s.takeUnicast_decoded _ _ _
        · exact s.takeGroup_decoded _ _ _
        · exact s.takeGroup_decoded _ _ _
      · exact .untouched
    · exact .untouched
  · exact .untouched

/-- BAD_KIND writes the link blocks alone, and none of its settings (R151). -/
theorem execBadKind_link {t : State} (ht : execBadKind s = .next t) :
    ∃ k, t = s.setLink k ∧ k.SameSettings s.link ∧ k.groupStore = s.link.groupStore := by
  have hs : ∃ k, s = s.setLink k ∧ k.SameSettings s.link ∧ k.groupStore = s.link.groupStore :=
    ⟨s.link, rfl, ⟨rfl, rfl, rfl, rfl⟩, rfl⟩
  unfold execBadKind State.outsideReset at ht
  cases ht
  split
  · dsimp only
    split
    · split
      · exact hs
      · unfold State.takeBadKind
        repeat' split
        all_goals exact ⟨_, rfl, ⟨rfl, rfl, rfl, rfl⟩, rfl⟩
    · exact hs
  · exact hs

/-- What a handler and the link blocks keep, the decoder's step keeps. -/
theorem State.Decoded.keeps {P : State → Prop} {t : State} (ht : s.Decoded h t) (hs : P s)
    (hlink : ∀ u k, P u → P (u.setLink k)) (hh : ∀ f u, P u → P (h f u).1) : P t := by
  obtain ⟨u, k, rfl | ⟨f, rest, rfl⟩, rfl, -⟩ := ht
  · exact hlink _ _ hs
  · exact hlink _ _ (hh _ _ (hlink _ _ hs))

end Sys2Proof.Machine

/-!
SUPPORT. What the invariants of lanes say of one lane: flags and points (`Lane.ok`) through every update of a
lane, its list (`Lane.listed`), its place in the list (`Lane.placed`), and the pages it holds (`Lane.holds`).
-/

namespace Sys2Proof.Machine

/-! ### Flags, timers and points through the updates of a lane (R62, R74, R75) -/

section

variable {x : Lane}

/-- A lane whose step is no longer in flight (R62, R72, R85). -/
theorem Lane.ok.noStep (h : x.ok) : x.noStep.ok := by
  obtain ⟨hp, hrs, hf, hr, hs, ht, -⟩ := h
  exact ⟨hp, hrs, hf, hr, hs, ht, by simp [Lane.noStep]⟩

theorem Lane.ok.withStep (h : x.ok) (hx : x.state = .running) (st : StepRecord) (now : Moment) :
    (x.withStep st now).ok := by
  obtain ⟨hp, hrs, hf, hr, hs, ht, -⟩ := h
  exact ⟨hp, hrs, hf, hr, hs, ht, fun _ => ⟨hx, by simp [Lane.withStep]⟩⟩

/-- The position plays no part in the order of flags. -/
theorem Lane.ok.setPosition (h : x.ok) (p : Position) : ({ x with position := p } : Lane).ok := h

/-- A RUNNING lane's time trigger is disarmed. -/
theorem Lane.ok.triggerArmed_eq_false (h : x.ok) (hx : x.state ≠ .armed) :
    x.triggerArmed = false := by
  obtain ⟨-, -, -, -, -, ht, -⟩ := h
  by_contra hc
  exact hx (ht (by simpa using hc)).1

/-- Only a PAUSED or HALTED lane has a resume point (R75). -/
theorem Lane.ok.resumePoint_eq_none (h : x.ok) (hx : x.state ≠ .paused ∧ x.state ≠ .halted) :
    x.resumePoint = .none := by
  obtain ⟨-, -, -, hr, -⟩ := h
  exact hr hx

/-- A RUNNING lane that comes to rest PAUSED or HALTED at a position with a resume point (R66, R77, R85). -/
theorem Lane.ok.rest (h : x.ok) (hx : x.state = .running) {st : LaneState}
    (hst : st = .paused ∨ st = .halted) (p : Position) (r : ResumePoint) :
    ({ x.noStep with
      state := st, position := p, resumePoint := r, pausePending := false } : Lane).ok := by
  have ht := h.triggerArmed_eq_false (by simp [hx])
  obtain ⟨-, hrs, -⟩ := h
  rcases hst with rfl | rfl <;> exact ⟨by simp, hrs, by simp, by simp, by simp, by simp [Lane.noStep, ht],
    by simp [Lane.noStep]⟩

/-- A lane whose run has ended (R81, R82). -/
theorem Lane.ended_ok (x : Lane) (r : Result) : (x.ended r).ok :=
  ⟨by simp [Lane.ended], by simp [Lane.ended], by simp [Lane.ended], by simp [Lane.ended],
    by simp [Lane.ended], by simp [Lane.ended], by simp [Lane.ended, Lane.noStep]⟩

/-- An ARMED lane that takes a start (R42). -/
theorem Lane.ok.started (h : x.ok) (hx : x.state = .armed) (p : Position) (src : StartSource) :
    ({ x with
      state := .running, triggerArmed := false, position := p, runSource := some src } : Lane).ok := by
  obtain ⟨-, hrs, hf, hr, -, -, hstep⟩ := h
  refine ⟨by simp, hrs, by simp, fun _ => hr (by simp [hx]), by simp, by simp, fun hc => ?_⟩
  exact absurd (hstep hc).1 (by simp [hx])

/-- A PAUSED or HALTED lane that is resumed (R86). -/
theorem Lane.ok.resumed (h : x.ok) (hx : x.state = .paused ∨ x.state = .halted) :
    ({ x with state := .running, resumePoint := .none } : Lane).ok := by
  have ht := h.triggerArmed_eq_false (by rcases hx with hx | hx <;> simp [hx])
  obtain ⟨-, hrs, -, -, -, -, hstep⟩ := h
  refine ⟨by simp, hrs, by simp, by simp, by simp, by simp [ht], fun hc => ?_⟩
  exact ⟨rfl, (hstep hc).2⟩

/-- An IDLE lane that is armed (R41). -/
theorem Lane.ok.armed (h : x.ok) (hx : x.state = .idle) (sources : BitVec 4) (start : Stamp) :
    (x.armedWith sources start).ok := by
  obtain ⟨hp, hrs, hf, hr, hs, -, hstep⟩ := h
  refine ⟨fun hc => ?_, hrs, fun _ => hf (.inl hx), fun _ => hr (by simp [hx]),
    fun _ => hs (.inl hx), fun hc => ⟨rfl, hc⟩, fun hc => ?_⟩
  · exact absurd (hp hc) (by simp [hx])
  · exact absurd (hstep hc).1 (by simp [hx])

/-- A lane in flight whose restart is queued (R84). -/
theorem Lane.ok.queueRestart (h : x.ok) (hx : x.state ≠ .idle ∧ x.state ≠ .armed) :
    x.queueRestart.ok := by
  obtain ⟨hp, -, -, hr, hs, ht, hstep⟩ := h
  exact ⟨hp, by simp [Lane.queueRestart], fun hc => (hc.elim hx.1 hx.2).elim, hr, hs, ht, hstep⟩

/-- A lane in flight that is asked to stop (R89). -/
theorem Lane.ok.askStop (h : x.ok) (hx : x.state ≠ .idle ∧ x.state ≠ .armed) : x.askStop.ok := by
  obtain ⟨hp, -, -, hr, hs, ht, hstep⟩ := h
  exact ⟨hp, by simp [Lane.askStop], fun hc => (hc.elim hx.1 hx.2).elim, hr, hs, ht, hstep⟩

theorem Lane.ok.askPause (h : x.ok) (hx : x.state = .running) : x.askPause.ok := by
  obtain ⟨-, hrs, hf, hr, hs, ht, hstep⟩ := h
  exact ⟨fun _ => hx, hrs, hf, hr, hs, ht, hstep⟩

theorem Lane.ok.cancelPause (h : x.ok) : x.cancelPause.ok := by
  obtain ⟨-, hrs, hf, hr, hs, ht, hstep⟩ := h
  exact ⟨by simp [Lane.cancelPause], hrs, hf, hr, hs, ht, hstep⟩

/-- A restart that is no longer pending, with the pass counted (R80). -/
theorem Lane.ok.restart (h : x.ok) (n : Nat) (p : Position) :
    ({ x with restartPending := false, passCount := n, position := p } : Lane).ok := by
  obtain ⟨hp, -, hf, hr, hs, ht, hstep⟩ := h
  exact ⟨hp, by simp, fun hc => ⟨rfl, (hf hc).2⟩, hr, hs, ht, hstep⟩

/-- A lane with a step in flight begins or ends to check (R62). -/
theorem Lane.ok.setChecking (h : x.ok) (hx : x.state = .running) (hc : x.current ≠ none) (b : Bool) :
    ({ x with checking := b } : Lane).ok := by
  obtain ⟨hp, hrs, hf, hr, hs, ht, -⟩ := h
  exact ⟨hp, hrs, hf, hr, hs, ht, fun _ => ⟨hx, hc⟩⟩

theorem Lane.cleared_ok : Lane.cleared.ok := by
  unfold Lane.ok Lane.cleared; decide

end

/-- Only a RUNNING lane has a step timer that is due (R59, R68). -/
theorem Lane.timerDue_running {x : Lane} {kind : StepKind} {now : Moment}
    (h : x.timerDue kind now = true) : x.state = .running := by
  unfold Lane.timerDue at h
  split at h
  · assumption
  · cases h

/-- Only a RUNNING lane has an opening comparison that is due (R53). -/
theorem State.openingDue_running {s : State} {l : LaneId} (h : s.openingDue l = true) :
    (s.lane l).state = .running := by
  unfold State.openingDue Lane.openingDue at h
  rw [Bool.and_eq_true] at h
  obtain ⟨-, h⟩ := h
  split at h
  · assumption
  · cases h

/-! ### Valid lists (R33) -/

/-- Every entry of a valid list fits it. -/
theorem listValid_fits {l : LaneId} {list : List SegmentEntry} (h : listValid l list = true) {i : Nat}
    (hi : i < list.length) : (list[i]).fits l i list.length = true := by
  simp only [listValid, Bool.and_eq_true, Option.isNone_iff_eq_none] at h
  obtain ⟨⟨-, hf⟩, -⟩ := h
  have := find_range_eq_none.1 hf i (by simpa using hi)
  simpa [hi] using this

theorem listValid_length {l : LaneId} {list : List SegmentEntry} (h : listValid l list = true) :
    0 < list.length := by
  simp only [listValid, Bool.and_eq_true, decide_eq_true_eq] at h
  exact h.1.1.1

/-- The fields of every entry of a valid list are in range (R32). -/
theorem listValid_fieldsOk {l : LaneId} {list : List SegmentEntry} (h : listValid l list = true)
    {e : SegmentEntry} (he : e ∈ list) : e.fieldsOk = true := by
  obtain ⟨i, hi, rfl⟩ := List.mem_iff_getElem.1 he
  have := listValid_fits h hi
  simp only [SegmentEntry.fits, Bool.and_eq_true] at this
  exact this.1.1

/-- An entry of a valid list without END is not the last (R33). -/
theorem listValid_next {l : LaneId} {list : List SegmentEntry} (h : listValid l list = true) {i : Nat}
    (hi : i < list.length) (he : (list[i]).isEnd = false) : i + 1 < list.length := by
  simp only [listValid, Bool.and_eq_true, endsWell] at h
  obtain ⟨-, hw⟩ := h
  by_contra hc
  have hl : list.getLast? = some list[i] := by
    rw [List.getLast?_eq_getElem?, show list.length - 1 = i by omega, List.getElem?_eq_getElem hi]
  rw [hl] at hw
  simp [he] at hw

/-! ### A lane's list and its place in it (R41, R49) -/

/-- A lane that is not IDLE has a valid list, and every slot it reaches is filled (R41). -/
def Lane.listed (x : Lane) (l : LaneId) (slot : Nat → Option StepRecord) : Prop :=
  x.state ≠ .idle →
    listValid l x.segments = true ∧ ∀ e ∈ x.segments, ∀ n ∈ e.slots, slot n ≠ none

/-- A position names a step of the lane's list (R49). -/
def Lane.stepAt (x : Lane) (p : Position) : Prop :=
  p.entry < x.segments.length ∧ 1 ≤ p.pass ∧ p.pass ≤ (x.entryAt p.entry).passes
    ∧ p.offset < (x.entryAt p.entry).count

/-- A position names the completion of an entry of the lane's list (R49). -/
def Lane.completionAt (x : Lane) (p : Position) : Prop :=
  p.entry < x.segments.length ∧ p.pass = (x.entryAt p.entry).passes
    ∧ p.offset = (x.entryAt p.entry).count

/-- A lane's position agrees with its state and its resume point, and a RUNNING lane runs the record of the slot
its position names (R9, R49, R50). -/
def Lane.placed (x : Lane) (slot : Nat → Option StepRecord) : Prop :=
  ((x.state = .idle ∨ x.state = .armed) → x.position = Position.none)
    ∧ (x.state = .running ∨ x.resumePoint = .step → x.stepAt x.position)
    ∧ (x.resumePoint = .completion ∨ x.resumePoint = .afterHalt → x.completionAt x.position)
    ∧ (x.state = .paused → x.resumePoint = .step)
    ∧ (x.state = .halted → x.resumePoint ≠ .none)
    ∧ (x.state = .running → x.current = slot x.slotNumber ∧ x.current ≠ none)

theorem State.listsOk_iff (s : State) : s.listsOk ↔ ∀ l, (s.lane l).listed l s.slot := Iff.rfl

theorem State.positionsOk_iff (s : State) : s.positionsOk ↔ ∀ l, (s.lane l).placed s.slot := Iff.rfl

section

variable {x : Lane} {l : LaneId} {slot : Nat → Option StepRecord} {p : Position}

theorem Lane.entryAt_eq_getElem (x : Lane) {i : Nat} (hi : i < x.segments.length) :
    x.entryAt i = x.segments[i] := by
  simp [Lane.entryAt, hi]

theorem Lane.entryAt_mem (x : Lane) {i : Nat} (hi : i < x.segments.length) :
    x.entryAt i ∈ x.segments := by
  rw [x.entryAt_eq_getElem hi]; exact List.getElem_mem hi

/-- The slot of a step of a lane's list is filled (R9, R41). -/
theorem Lane.listed.slot_ne_none (h : x.listed l slot) (hx : x.state ≠ .idle) (hp : x.stepAt p) :
    slot ((x.entryAt p.entry).first + p.offset) ≠ none := by
  obtain ⟨hi, -, -, ho⟩ := hp
  refine (h hx).2 _ (x.entryAt_mem hi) _ ?_
  rw [SegmentEntry.slots, List.mem_range'_1]
  omega

/-- The beginning of every entry of a lane's list names a step. -/
theorem Lane.listed.stepAt_first (h : x.listed l slot) (hx : x.state ≠ .idle) {i : Nat}
    (hi : i < x.segments.length) : x.stepAt { entry := i, pass := 1, offset := 0 } := by
  have hf := listValid_fieldsOk (h hx).1 (x.entryAt_mem hi)
  simp only [SegmentEntry.fieldsOk, decide_eq_true_eq] at hf
  exact ⟨hi, Nat.le_refl _, hf.2.2.2.2.1, hf.2.1⟩

/-- The first position of a run names a step. -/
theorem Lane.listed.stepAt_start (h : x.listed l slot) (hx : x.state ≠ .idle) :
    x.stepAt Position.first :=
  h.stepAt_first hx (listValid_length (h hx).1)

/-- An entry without END is followed by an entry (R33, R78). -/
theorem Lane.listed.next_lt (h : x.listed l slot) (hx : x.state ≠ .idle) {i : Nat}
    (hi : i < x.segments.length) (he : (x.entryAt i).isEnd = false) : i + 1 < x.segments.length := by
  rw [x.entryAt_eq_getElem hi] at he
  exact listValid_next (h hx).1 hi he

/-- The position after a step lies in the same entry (R68). -/
theorem Lane.nextPosition_entry (x : Lane) : x.nextPosition.entry = x.position.entry := by
  rw [Lane.nextPosition_eq]; repeat' split
  all_goals rfl

/-- The position after a step that does not complete its entry names a step (R68, cases 1 and 2). -/
theorem Lane.stepAt.next (h : x.stepAt x.position) (hc : x.atCompletion = false) :
    x.stepAt x.nextPosition := by
  obtain ⟨hi, h1, h2, h3⟩ := h
  simp only [Lane.atCompletion, Bool.and_eq_false_iff, Bool.not_eq_false', decide_eq_true_eq] at hc
  rw [Lane.nextPosition_eq]
  split
  · exact ⟨hi, h1, h2, by assumption⟩
  · rw [if_pos (by omega)]
    exact ⟨hi, by dsimp only; omega, by dsimp only; omega, by dsimp only; omega⟩

/-- The position after the last step of an entry names its completion (R68, case 3). -/
theorem Lane.stepAt.completion (h : x.stepAt x.position) (hc : x.atCompletion = true) :
    x.completionAt x.nextPosition := by
  obtain ⟨hi, h1, h2, h3⟩ := h
  have hc := (Lane.atCompletion_iff x).1 hc
  rw [Lane.nextPosition_eq, if_neg (Nat.not_lt.2 hc.1), if_neg (Nat.not_lt.2 hc.2)]
  exact ⟨hi, Nat.le_antisymm h2 hc.2, rfl⟩

/-- The place of a lane that rests HALTED (R66, R77). -/
theorem Lane.placed_of_halted (hx : x.state = .halted) (hr : x.resumePoint ≠ .none)
    (hs : x.resumePoint = .step → x.stepAt x.position)
    (hc : x.resumePoint ≠ .step → x.completionAt x.position) : x.placed slot := by
  refine ⟨by simp [hx], fun h => hs (h.resolve_left (by simp [hx])), fun h => hc ?_, by simp [hx],
    fun _ => hr, by simp [hx]⟩
  rcases h with h | h <;> simp [h]

/-- The place of a lane that rests PAUSED (R85). -/
theorem Lane.placed_of_paused (hx : x.state = .paused) (hr : x.resumePoint = .step)
    (hp : x.stepAt x.position) : x.placed slot :=
  ⟨by simp [hx], fun _ => hp, by simp [hr], fun _ => hr, by simp [hx], by simp [hx]⟩

/-- The place of a lane that runs the step of its position (R50). -/
theorem Lane.placed_of_running (hx : x.state = .running) (hr : x.resumePoint = .none)
    (hp : x.stepAt x.position) (hc : x.current = slot x.slotNumber ∧ x.current ≠ none) :
    x.placed slot :=
  ⟨by simp [hx], fun _ => hp, by simp [hr], by simp [hx], by simp [hx], fun _ => hc⟩

/-- The place of a lane that has no run (R49). -/
theorem Lane.placed_of_waiting (hx : x.state = .idle ∨ x.state = .armed) (hr : x.resumePoint = .none)
    (hp : x.position = Position.none) : x.placed slot := by
  refine ⟨fun _ => hp, fun h => ?_, by simp [hr], ?_, ?_, ?_⟩
  · rcases h with h | h
    · rcases hx with hx | hx <;> simp [hx] at h
    · simp [hr] at h
  all_goals rcases hx with hx | hx <;> simp [hx]

/-- What the place of a lane is judged by. -/
structure Lane.SamePlace (y x : Lane) : Prop where
  state : y.state = x.state
  position : y.position = x.position
  segments : y.segments = x.segments
  resumePoint : y.resumePoint = x.resumePoint
  current : y.current = x.current

variable {y : Lane}

theorem Lane.SamePlace.listed (e : y.SamePlace x) (h : x.listed l slot) : y.listed l slot := by
  unfold Lane.listed; rw [e.state, e.segments]; exact h

theorem Lane.SamePlace.placed (e : y.SamePlace x) (h : x.placed slot) : y.placed slot := by
  unfold Lane.placed Lane.stepAt Lane.completionAt Lane.slotNumber Lane.entryAt
  rw [e.state, e.segments, e.position, e.resumePoint, e.current]; exact h

end

/-! ### The pages a lane holds (R6) -/

/-- A lane holds a page: it is not IDLE, and its list touches the page. -/
def Lane.holds (x : Lane) (p : Nat) : Bool := decide (x.state ≠ .idle) && touches x.segments p

theorem Lane.holds_of_idle {x : Lane} (h : x.state = .idle) (p : Nat) : x.holds p = false := by
  simp [Lane.holds, h]

theorem Lane.holds_of_busy {x : Lane} (h : x.state ≠ .idle) (p : Nat) :
    x.holds p = touches x.segments p := by
  simp [Lane.holds, h]

theorem State.refsOk_iff (s : State) :
    s.refsOk ↔ ∀ p, p < 128 → s.refCount p = countLanes fun l => (s.lane l).holds p := Iff.rfl

theorem countLanes_eq_sum (f : LaneId → Bool) :
    countLanes f = (f 0).toNat + (f 1).toNat + (f 2).toNat + (f 3).toNat := by
  simp only [countLanes, laneIds, List.countP_cons, List.countP_nil]
  have hb (b : Bool) : (if b = true then 1 else 0) = b.toNat := by cases b <;> rfl
  simp only [hb]
  omega

/-- A count of lanes when one lane alone changes. -/
theorem countLanes_change (f g : LaneId → Bool) (l : LaneId) (h : ∀ k, k ≠ l → f k = g k) :
    countLanes f + (g l).toNat = countLanes g + (f l).toNat := by
  rw [countLanes_eq_sum, countLanes_eq_sum]
  match l, h with
  | 0, h => rw [h 1 (by decide), h 2 (by decide), h 3 (by decide)]; omega
  | 1, h => rw [h 0 (by decide), h 2 (by decide), h 3 (by decide)]; omega
  | 2, h => rw [h 0 (by decide), h 1 (by decide), h 3 (by decide)]; omega
  | 3, h => rw [h 0 (by decide), h 1 (by decide), h 2 (by decide)]; omega

/-- A page that a lane holds is counted. -/
theorem countLanes_pos {f : LaneId → Bool} {l : LaneId} (h : f l = true) : 0 < countLanes f := by
  have hm : l ∈ laneIds := by fin_cases l <;> decide
  exact List.countP_pos_iff.2 ⟨l, hm, h⟩

/-- An entry touches the page of every slot it reaches (R6). -/
theorem touches_of_slot {list : List SegmentEntry} {e : SegmentEntry} {n : Nat} (he : e ∈ list)
    (hn : n ∈ e.slots) : touches list (n / 16) = true := by
  rw [SegmentEntry.slots, List.mem_range'_1] at hn
  refine List.any_eq_true.2 ⟨e, he, ?_⟩
  simp only [SegmentEntry.touches, Bool.and_eq_true, decide_eq_true_eq]
  omega

end Sys2Proof.Machine

/-!
SUPPORT. Lanes, references, store, lists and positions in order (`State.Steady`), and that every operation of the
lane engine keeps them so. One walk through the operations serves both invariants: the flags and references
(R6, R74) need nothing of lists and positions (R41, R49), so these stand behind a proposition `deep`.
-/

namespace Sys2Proof.Machine

/-- Lanes and references are in order, and where `deep` holds store, lists and positions too. In the middle of an
operation one lane may be `at work`: its place is not judged until the operation lets it rest. -/
structure State.Steady (deep : Prop) (atWork : Option LaneId) (s : State) : Prop where
  lanes : s.lanesOk
  refs : s.refsOk
  store : deep → s.storeOk
  lists : deep → ∀ k, (s.lane k).listed k s.slot
  places : deep → ∀ k, atWork ≠ some k → (s.lane k).placed s.slot

theorem State.recordFault_running {s : State} {l : LaneId} (b : RecordBody)
    (hr : (s.lane l).state = .running) : ((s.recordFault l b).lane l).state = .running := by
  simpa [State.recordFault] using hr

namespace State.Steady

variable {deep : Prop} {w : Option LaneId} {s t : State} {l : LaneId}

/-! ### Updates of the state -/

/-- Lanes, references and slots alone are judged. -/
theorem congr (h : s.Steady deep w) (hl : t.lanes = s.lanes) (hr : t.refs = s.refs)
    (hs : t.slots = s.slots) : t.Steady deep w := by
  have e1 (k : LaneId) : t.lane k = s.lane k := by simp [State.lane, hl]
  have e2 (p : Nat) : t.refCount p = s.refCount p := by simp [State.refCount, hr]
  have e3 : t.slot = s.slot := by funext n; simp [State.slot, hs]
  refine ⟨fun k => ?_, fun p hp => ?_, fun hd => ?_, fun hd k => ?_, fun hd k hk => ?_⟩
  · rw [e1]; exact h.lanes k
  · simp only [e1, e2]; exact h.refs p hp
  · unfold State.storeOk; rw [hs]; exact h.store hd
  · rw [e1, e3]; exact h.lists hd k
  · rw [e1, e3]; exact h.places hd k hk

theorem congr_of_eq {u : State} (h : s.Steady deep w) (e : t = u) (hl : u.lanes = s.lanes)
    (hr : u.refs = s.refs) (hs : u.slots = s.slots) : t.Steady deep w := e ▸ h.congr hl hr hs

theorem raise (h : s.Steady deep w) (k : NoticeKey) (d : NoticeDetail) :
    (s.raise k d).Steady deep w := h.congr rfl rfl rfl

theorem raiseLane (h : s.Steady deep w) (k : LaneNotice) (l : LaneId) (d : NoticeDetail) :
    (s.raiseLane k l d).Steady deep w := h.congr rfl rfl rfl

theorem takeRecord (h : s.Steady deep w) (b : RecordBody) : (s.takeRecord b).Steady deep w :=
  h.congr (by simp) (by simp) (by simp)

/-- One lane changes, and goes on holding the pages it held. -/
theorem change (h : s.Steady deep w) (hr : t.refs = s.refs) (hs : t.slots = s.slots)
    (ho : t.keepsOtherLanes s l) (hok : (t.lane l).ok)
    (hh : ∀ p, (t.lane l).holds p = (s.lane l).holds p) (hl : deep → (t.lane l).listed l s.slot)
    (hp : deep → w ≠ some l → (t.lane l).placed s.slot) : t.Steady deep w := by
  have e2 (p : Nat) : t.refCount p = s.refCount p := by simp [State.refCount, hr]
  have e3 : t.slot = s.slot := by funext n; simp [State.slot, hs]
  refine ⟨fun k => ?_, fun p hp' => ?_, fun hd => ?_, fun hd k => ?_, fun hd k hk => ?_⟩
  · by_cases hk : k = l
    · subst hk; exact hok
    · rw [ho k hk]; exact h.lanes k
  · rw [e2, s.refsOk_iff.1 h.refs p hp']
    refine congrArg countLanes (funext fun k => ?_)
    by_cases hk : k = l
    · subst hk; exact (hh p).symm
    · rw [ho k hk]; rfl
  · unfold State.storeOk; rw [hs]; exact h.store hd
  · rw [e3]
    by_cases hk : k = l
    · subst hk; exact hl hd
    · rw [ho k hk]; exact h.lists hd k
  · rw [e3]
    by_cases hkl : k = l
    · subst hkl; exact hp hd hk
    · rw [ho k hkl]; exact h.places hd k hk

theorem setLane {x : Lane} (h : s.Steady deep w) (hok : x.ok)
    (hh : ∀ p, x.holds p = (s.lane l).holds p) (hl : deep → x.listed l s.slot)
    (hp : deep → w ≠ some l → x.placed s.slot) : (s.setLane l x).Steady deep w := by
  have e := s.lane_setLane_self l x
  exact h.change rfl rfl (fun k hk => State.lane_setLane_ne _ _ (Ne.symm hk)) (by rwa [e])
    (by rwa [e]) (by rwa [e]) (by rwa [e])

/-- A lane that stays in its place changes its flags, counts or timers. -/
theorem setLane_samePlace {x : Lane} (h : s.Steady deep w) (hok : x.ok)
    (e : x.SamePlace (s.lane l)) : (s.setLane l x).Steady deep w :=
  h.setLane hok (fun p => by unfold Lane.holds; rw [e.state, e.segments])
    (fun hd => e.listed (h.lists hd l)) (fun hd hw => e.placed (h.places hd l hw))

/-- A lane with a run changes; it keeps its list and does not end its run. -/
theorem setLane_busy {x : Lane} (h : s.Steady deep w) (hok : x.ok)
    (hs : (s.lane l).state ≠ .idle) (hx : x.state ≠ .idle) (hg : x.segments = (s.lane l).segments)
    (hp : deep → w ≠ some l → x.placed s.slot) : (s.setLane l x).Steady deep w :=
  h.setLane hok (fun p => by rw [Lane.holds_of_busy hx, Lane.holds_of_busy hs, hg])
    (fun hd _ => by rw [hg]; exact h.lists hd l hs) hp

/-- A lane goes to work. -/
theorem work (h : s.Steady deep none) (l : LaneId) : s.Steady deep (some l) :=
  ⟨h.lanes, h.refs, h.store, h.lists, fun hd k _ => h.places hd k nofun⟩

/-- A lane that has been at work rests in a place. -/
theorem settle (h : s.Steady deep (some l)) (hp : deep → (s.lane l).placed s.slot) :
    s.Steady deep none := by
  refine ⟨h.lanes, h.refs, h.store, h.lists, fun hd k _ => ?_⟩
  by_cases hk : k = l
  · subst hk; exact hp hd
  · exact h.places hd k (by simpa using Ne.symm hk)

/-- A lane at work with a run comes to rest. -/
theorem rest {x : Lane} (h : s.Steady deep (some l)) (hok : x.ok) (hs : (s.lane l).state ≠ .idle)
    (hx : x.state ≠ .idle) (hg : x.segments = (s.lane l).segments) (hp : deep → x.placed s.slot) :
    (s.setLane l x).Steady deep none :=
  (h.setLane_busy hok hs hx hg fun _ hc => absurd rfl hc).settle fun hd => by
    rw [State.lane_setLane_self]; exact hp hd

/-! ### Reports -/

theorem reachCheckpoint (h : s.Steady deep w) (l : LaneId) (i : Nat) :
    (s.reachCheckpoint l i).Steady deep w := by
  unfold State.reachCheckpoint; split
  · exact h.raiseLane _ _ _
  · exact h

theorem passCheckpoint (h : s.Steady deep w) (l : LaneId) (i : Nat) :
    (s.passCheckpoint l i).Steady deep w := by
  unfold State.passCheckpoint; split
  · exact h.raiseLane _ _ _
  · exact h

theorem reportMark (h : s.Steady deep w) (l : LaneId) (i : Nat) :
    (s.reportMark l i).Steady deep w := by
  unfold State.reportMark; split
  · exact h.raiseLane _ _ _
  · exact h

theorem recordStart (h : s.Steady deep w) (l : LaneId) (src : Option StartSource) :
    (s.recordStart l src).Steady deep w := by
  unfold State.recordStart; split
  · exact h.takeRecord _
  · exact h

/-! ### A lane goes on, halts or pauses -/

/-- A step begins at a RUNNING lane whose position names a step (R50). -/
theorem beginStep (h : s.Steady deep (some l)) (hr : (s.lane l).state = .running)
    (hp : deep → (s.lane l).stepAt (s.lane l).position) : (s.beginStep l).Steady deep none := by
  have hb : (s.lane l).state ≠ .idle := by simp [hr]
  unfold State.beginStep
  split
  · rename_i st hst
    refine h.rest ((h.lanes l).withStep hr st s.now) hb hb rfl fun hd => ?_
    refine Lane.placed_of_running hr ?_ (hp hd) ⟨hst.symm, by simp [Lane.withStep]⟩
    exact (h.lanes l).resumePoint_eq_none (by simp [hr])
  · rename_i hst
    refine h.rest (h.lanes l).noStep hb hb rfl fun hd => ?_
    exact absurd hst ((h.lists hd l).slot_ne_none hb (hp hd))

/-- A RUNNING lane halts at a step or at a completion (R66, R77). -/
theorem haltLane {p : Position} {r : ResumePoint} (h : s.Steady deep (some l))
    (hr : (s.lane l).state = .running) (hn : r ≠ .none)
    (hs : deep → r = .step → (s.lane l).stepAt p)
    (hc : deep → r ≠ .step → (s.lane l).completionAt p) : (s.haltLane l p r).Steady deep none :=
  (h.rest ((h.lanes l).rest hr (.inr rfl) p r) (by simp [hr]) (by simp) rfl fun hd =>
    Lane.placed_of_halted rfl hn (hs hd) (hc hd)).raiseLane _ _ _

/-- A pause takes effect at a step (R85). -/
theorem pauseLane {p : Position} (h : s.Steady deep (some l)) (hr : (s.lane l).state = .running)
    (hp : deep → (s.lane l).stepAt p) : (s.pauseLane l p).Steady deep none :=
  (h.rest ((h.lanes l).rest hr (.inl rfl) p .step) (by simp [hr]) (by simp) rfl fun hd =>
    Lane.placed_of_paused rfl rfl (hp hd)).raiseLane _ _ _

/-- A RUNNING lane at work moves to another position. -/
theorem moveTo (h : s.Steady deep (some l)) (hr : (s.lane l).state = .running) (p : Position) :
    (s.setLane l { s.lane l with position := p }).Steady deep (some l) :=
  h.setLane_busy ((h.lanes l).setPosition p) (by simp [hr]) (by simp [hr]) rfl fun _ hc => absurd rfl hc

theorem goOnAt {p : Position} (h : s.Steady deep (some l)) (hr : (s.lane l).state = .running)
    (hp : deep → (s.lane l).stepAt p) : (s.goOnAt l p).Steady deep none := by
  unfold State.goOnAt; split
  · exact h.pauseLane hr hp
  · exact (h.moveTo hr p).beginStep (by simpa using hr)
      (fun hd => by rw [State.lane_setLane_self]; exact hp hd)

/-! ### A start and the end of a run -/

/-- A start reaches a lane, whatever lane is at work (R42 to R45, R93). -/
theorem startLane (h : s.Steady deep w) (k : LaneId) (src : StartSource) :
    (s.startLane k src).Steady deep w := by
  unfold State.startLane
  split
  · rename_i ha
    obtain ⟨ha, -⟩ := ha
    have hb : (s.lane k).state ≠ .idle := by simp [ha]
    have hok := (h.lanes k).started ha Position.first src
    have hpoint := (h.lanes k).resumePoint_eq_none (by simp [ha])
    obtain ⟨hf, ho, -, -⟩ := s.takeStart_spec k src
    have hrefs : (s.takeStart k src).refs = s.refs := by rw [hf]
    have hl := s.takeStart_lane k src
    split at hl
    · rename_i st hst
      refine h.change hrefs (s.takeStart_work k src).slots ho ?_ (fun p => ?_) (fun hd _ => ?_)
        (fun hd _ => ?_) <;> rw [hl]
      · exact hok.withStep rfl st s.now
      · rw [Lane.holds_of_busy hb]; rfl
      · exact h.lists hd k hb
      · exact Lane.placed_of_running rfl hpoint ((h.lists hd k).stepAt_start hb)
          ⟨hst.symm, by simp [Lane.withStep]⟩
    · rename_i hst
      have hd : ¬ deep := fun hd =>
        (h.lists hd k).slot_ne_none hb ((h.lists hd k).stepAt_start hb) hst
      refine h.change hrefs (s.takeStart_work k src).slots ho ?_ (fun p => ?_) (fun c => absurd c hd)
        (fun c => absurd c hd) <;> rw [hl]
      · exact hok.noStep
      · rw [Lane.holds_of_busy hb]; rfl
  · exact h

theorem deliverCue (h : s.Steady deep w) (l : LaneId) (i : Nat) :
    (s.deliverCue l i).Steady deep w := by
  unfold State.deliverCue; split
  · exact h.startLane _ _
  · exact h

/-- The run of a lane that is not IDLE ends (R81, R82). -/
theorem endRun (h : s.Steady deep (some l)) (hs : (s.lane l).state ≠ .idle) (r : Result) :
    (s.endRun l r).Steady deep none := by
  obtain ⟨hf, ho, -, hend, -, hrefs⟩ := s.endRun_endsRun l r
  have hslot : (s.endRun l r).slot = s.slot := by rw [hf]; rfl
  have hslots : (s.endRun l r).slots = s.slots := by rw [hf]
  have hl : (s.endRun l r).lane l = (s.lane l).ended r := by simp [State.endRun_eq]
  generalize s.endRun l r = t at *
  refine ⟨fun k => ?_, fun p hp => ?_, fun hd => ?_, fun hd k => ?_, fun hd k _ => ?_⟩
  · by_cases hk : k = l
    · subst hk; rw [hl]; exact Lane.ended_ok _ _
    · rw [ho k hk]; exact h.lanes k
  · have hc := countLanes_change (fun k => (t.lane k).holds p) (fun k => (s.lane k).holds p) l
      fun k hk => by rw [ho k hk]
    have hz : (t.lane l).holds p = false := Lane.holds_of_idle (by rw [hl]; rfl) p
    have hb := Lane.holds_of_busy hs p
    have hold := s.refsOk_iff.1 h.refs p hp
    rw [hrefs p hp]
    change _ = countLanes fun k => (t.lane k).holds p
    simp only [hz, hb] at hc
    split
    · rename_i ht; rw [ht] at hc; simp at hc; omega
    · rename_i ht; simp only [Bool.not_eq_true] at ht; rw [ht] at hc; simp at hc; omega
  · unfold State.storeOk; rw [hslots]; exact h.store hd
  · rw [hslot]
    by_cases hk : k = l
    · subst hk; rw [hl]; exact fun hc => absurd rfl hc
    · rw [ho k hk]; exact h.lists hd k
  · rw [hslot]
    by_cases hk : k = l
    · subst hk; rw [hl]; exact Lane.placed_of_waiting (.inl rfl) rfl rfl
    · rw [ho k hk]; exact h.places hd k (by simpa using Ne.symm hk)

theorem abortLane (h : s.Steady deep none) (l : LaneId) (r : Result) :
    (s.abortLane l r).Steady deep none := by
  unfold State.abortLane; split
  · exact h
  · rename_i hs; exact (h.work l).endRun hs r

/-! ### The end decision, an entry's completion and the end of a step -/

theorem restartRun (h : s.Steady deep (some l)) (hr : (s.lane l).state = .running) :
    (s.restartRun l).Steady deep none := by
  have hb : (s.lane l).state ≠ .idle := by simp [hr]
  have h1 := h.setLane_busy ((h.lanes l).restart (saturate 65535 (s.lane l).passCount) Position.first)
    hb hb rfl fun _ hc => absurd rfl hc
  refine ((h1.recordStart l _).reachCheckpoint l 0).goOnAt (by simpa using hr) fun hd => ?_
  rw [State.reachCheckpoint_lane, State.recordStart_lane, State.lane_setLane_self]
  exact (h.lists hd l).stepAt_start hb

theorem endDecision (h : s.Steady deep (some l)) (hr : (s.lane l).state = .running) :
    (s.endDecision l).Steady deep none := by
  have hb : (s.lane l).state ≠ .idle := by simp [hr]
  unfold State.endDecision
  dsimp only
  repeat' split
  · exact h.endRun hb _
  · exact h.restartRun hr
  · exact h.endRun hb _

/-- A RUNNING lane goes on after the HALT flag of an entry of its list (R78, R79). -/
theorem afterHalt (h : s.Steady deep (some l)) (hr : (s.lane l).state = .running)
    (hi : deep → (s.lane l).position.entry < (s.lane l).segments.length) :
    (s.afterHalt l).Steady deep none := by
  have hb : (s.lane l).state ≠ .idle := by simp [hr]
  unfold State.afterHalt
  dsimp only
  split
  · exact h.endDecision hr
  · rename_i he
    refine (h.reachCheckpoint l _).goOnAt (by simpa using hr) fun hd => ?_
    rw [State.reachCheckpoint_lane]
    exact (h.lists hd l).stepAt_first hb ((h.lists hd l).next_lt hb (hi hd) (by simpa using he))

/-- A RUNNING lane completes an entry of its list (R76 to R79). -/
theorem complete (h : s.Steady deep (some l)) (hr : (s.lane l).state = .running)
    (hi : deep → (s.lane l).position.entry < (s.lane l).segments.length) :
    (s.complete l).Steady deep none := by
  unfold State.complete
  dsimp only
  generalize hu : ((s.reportMark l (s.lane l).position.entry).deliverCue l
    (s.lane l).position.entry).passCheckpoint l (s.lane l).position.entry = u
  have h1 : u.Steady deep (some l) := by
    rw [← hu]; exact ((h.reportMark l _).deliverCue l _).passCheckpoint l _
  have hl : u.lane l = s.lane l := by
    rw [← hu, State.passCheckpoint_lane,
      (State.deliverCue_cueDelivered _ l _).lane_self (by simp [hr]), State.reportMark_lane]
  have hr' : (u.lane l).state = .running := by rw [hl]; exact hr
  split
  · exact h1.haltLane hr' nofun (fun _ => nofun) fun hd _ => ⟨by rw [hl]; exact hi hd, rfl, rfl⟩
  · exact h1.afterHalt hr' (by rw [hl]; exact hi)

/-- The place of a RUNNING lane names a step (R49). -/
theorem stepAt (h : s.Steady deep none) (hr : (s.lane l).state = .running) (hd : deep) :
    (s.lane l).stepAt (s.lane l).position := by
  obtain ⟨-, hs, -⟩ := h.places hd l nofun
  exact hs (.inl hr)

/-- The step of a RUNNING lane ends (R68). -/
theorem endStep (h : s.Steady deep none) (hr : (s.lane l).state = .running) :
    (s.endStep l).Steady deep none := by
  have hb : (s.lane l).state ≠ .idle := by simp [hr]
  have h1 : (s.setLane l { (s.lane l).noStep with position := (s.lane l).nextPosition }).Steady
      deep (some l) :=
    (h.work l).setLane_busy ((h.lanes l).noStep.setPosition _) hb hb rfl fun _ hc => absurd rfl hc
  unfold State.endStep
  dsimp only
  split
  · refine h1.complete (by simpa [Lane.noStep] using hr) fun hd => ?_
    rw [State.lane_setLane_self]
    exact (s.lane l).nextPosition_entry ▸ (h.stepAt hr hd).1
  · rename_i hc
    refine h1.goOnAt (by simpa [Lane.noStep] using hr) fun hd => ?_
    rw [State.lane_setLane_self]
    exact (h.stepAt hr hd).next (by simpa using hc)

/-! ### Faults -/

theorem recordFault (h : s.Steady deep none) (l : LaneId) (b : RecordBody) :
    (s.recordFault l b).Steady deep none := by
  have h1 := (h.takeRecord b).raiseLane .fault l (.position (s.lane l).position)
  exact h1.setLane_samePlace (h1.lanes l) ⟨rfl, rfl, rfl, rfl, rfl⟩

theorem haltOnFault (h : s.Steady deep none) (hr : (s.lane l).state = .running) :
    (s.haltOnFault l).Steady deep none := by
  unfold State.haltOnFault
  split
  · rename_i hc
    exact (h.work l).haltLane hr (by simp) (fun _ => nofun)
      (fun hd _ => (h.stepAt hr hd).completion hc)
  · rename_i hc
    exact (h.work l).haltLane hr (by simp)
      (fun hd _ => (h.stepAt hr hd).next (by simpa using hc)) (fun _ hn => absurd rfl hn)

/-- The on-mismatch action at a RUNNING lane (R65 to R67). -/
theorem act {f : State → State} (h : s.Steady deep none) (hr : (s.lane l).state = .running)
    (m : Mismatch) (hf : (f s).Steady deep none) : (s.act l m f).Steady deep none := by
  unfold State.act
  split
  · exact hf
  · exact h.haltOnFault hr
  · exact h.abortLane l _

theorem holdExpires (h : s.Steady deep none) (hr : (s.lane l).state = .running) (st : StepRecord) :
    (s.holdExpires l st).Steady deep none := by
  unfold State.holdExpires
  dsimp only
  split
  · have hr' := State.recordFault_running
      (.stepFault l (s.lane l).position st.check s.sampled (st.differing s.sampled)) hr
    exact (h.recordFault l _).act hr' _ ((h.recordFault l _).endStep hr')
  · exact h.endStep hr

/-- A lane with a step in flight begins or ends to check (R62). -/
theorem setChecking (h : s.Steady deep none) (hr : (s.lane l).state = .running)
    (hc : (s.lane l).current ≠ none) (b : Bool) :
    (s.setLane l { s.lane l with checking := b }).Steady deep none :=
  h.setLane_samePlace ((h.lanes l).setChecking hr hc b) ⟨rfl, rfl, rfl, rfl, rfl⟩

/-- A fault in a step that checks (R63 to R67). -/
theorem faultInCheck {f : State → State} (h : s.Steady deep none)
    (hr : (s.lane l).state = .running) (hc : (s.lane l).current ≠ none) (b : RecordBody)
    (m : Mismatch)
    (hf : ∀ u : State, u.Steady deep none → (u.lane l).state = .running → (f u).Steady deep none) :
    (((s.setLane l { s.lane l with checking := false }).recordFault l b).act l m f).Steady
      deep none := by
  have h' := (h.setChecking hr hc false).recordFault l b
  have hr' := State.recordFault_running (l := l)
    (s := s.setLane l { s.lane l with checking := false }) b (by simpa using hr)
  exact h'.act hr' m (hf _ h' hr')

theorem limitExpires (h : s.Steady deep none) (hr : (s.lane l).state = .running)
    (hc : (s.lane l).current ≠ none) (st : StepRecord) : (s.limitExpires l st).Steady deep none :=
  h.faultInCheck hr hc _ _ fun _ hu hur => hu.endStep hur

theorem compareAt (h : s.Steady deep none) (hr : (s.lane l).state = .running)
    (hc : (s.lane l).current ≠ none) (st : StepRecord) (v : Lines) :
    (s.compareAt l st v).Steady deep none := by
  unfold State.compareAt
  dsimp only
  split
  · split
    · exact h.setChecking hr hc true
    · exact h.faultInCheck hr hc _ _ fun _ hu _ => hu
  · split
    · exact h.endStep hr
    · exact h.setChecking hr hc true
  · exact h
  · exact h

/-! ### Requests and watches at a lane -/

/-- A PAUSED or HALTED lane is resumed (R86, R87). -/
theorem resumeLane (h : s.Steady deep none)
    (hs : (s.lane l).state = .paused ∨ (s.lane l).state = .halted) :
    (s.resumeLane l).Steady deep none := by
  have hb : (s.lane l).state ≠ .idle := by rcases hs with hs | hs <;> simp [hs]
  have h1 : (s.setLane l { s.lane l with state := .running, resumePoint := .none }).Steady
      deep (some l) :=
    (h.work l).setLane_busy ((h.lanes l).resumed hs) hb nofun rfl fun _ hc => absurd rfl hc
  have hx := s.lane_setLane_self l { s.lane l with state := .running, resumePoint := .none }
  have hr := congrArg Lane.state hx
  unfold State.resumeLane
  dsimp only
  split
  · rename_i hp
    refine h1.beginStep hr fun hd => ?_
    obtain ⟨-, hstep, -⟩ := h.places hd l nofun
    rw [hx]; exact hstep (.inr hp)
  · rename_i hp
    refine h1.beginStep hr fun hd => ?_
    obtain ⟨-, -, -, hpaused, hhalted, -⟩ := h.places hd l nofun
    rcases hs with hs | hs
    · exact absurd (hpaused hs) (by simp [hp])
    · exact absurd hp (hhalted hs)
  · rename_i hp
    refine h1.complete hr fun hd => ?_
    obtain ⟨-, -, hcomp, -⟩ := h.places hd l nofun
    rw [hx]; exact (hcomp (.inl hp)).1
  · rename_i hp
    refine h1.afterHalt hr fun hd => ?_
    obtain ⟨-, -, hcomp, -⟩ := h.places hd l nofun
    rw [hx]; exact (hcomp (.inr hp)).1

theorem askPause (h : s.Steady deep none) (l : LaneId) : (s.askPause l).Steady deep none := by
  unfold State.askPause; split
  · rename_i hr
    exact h.setLane_samePlace ((h.lanes l).askPause hr) ⟨rfl, rfl, rfl, rfl, rfl⟩
  · exact h

theorem laneAction (h : s.Steady deep none) (i : WatchId) (l : LaneId) (a : LaneAction) :
    (s.laneAction i l a).Steady deep none := by
  cases a with
  | start => exact h.startLane _ _
  | pause => exact h.askPause _
  | abort => exact h.abortLane _ _

/-! ### Change events (R23) -/

theorem watchHit (h : s.Steady deep none) (i : WatchId) (d : WatchDef) (p v : Lines) :
    (s.watchHit i d p v).Steady deep none := by
  have hset {u : State} (hu : u.Steady deep none) (x : Watch) : (u.setWatch i x).Steady deep none :=
    hu.congr rfl rfl rfl
  have hrec {u : State} (hu : u.Steady deep none) : State.Steady deep none
      (if d.record then u.takeRecord (.watchHit i v (p ^^^ v)) else u) := by
    split
    · exact hu.takeRecord _
    · exact hu
  have hnote {u : State} (hu : u.Steady deep none) (n : Nat) : State.Steady deep none
      (if d.notify then u.raise (.watchHit i) (.count n) else u) := by
    split
    · exact hu.raise _ _
    · exact hu
  have hact {u : State} (hu : u.Steady deep none) : State.Steady deep none
      (match d.laneAction with | some (l, a) => u.laneAction i l a | none => u) := by
    split
    · exact hu.laneAction _ _ _
    · exact hu
  exact hset (hact (hnote (hrec (hset h _)) _)) _

theorem evaluateWatch (h : s.Steady deep none) (p v : Lines) (i : WatchId) :
    (s.evaluateWatch p v i).Steady deep none := by
  unfold State.evaluateWatch
  split
  · split
    · exact h.watchHit _ _ _ _
    · exact h
  · exact h

/-- A fold of acts that keep a station in order. -/
theorem foldl {α : Type} {f : State → α → State}
    (hf : ∀ u a, u.Steady deep none → (f u a).Steady deep none) (xs : List α)
    (h : s.Steady deep none) : (xs.foldl f s).Steady deep none := by
  induction xs generalizing s with
  | nil => exact h
  | cons a as ih => exact ih (hf s a h)

theorem laneTakesChange (h : s.Steady deep none) (v : Lines) (l : LaneId) :
    (s.laneTakesChange v l).Steady deep none := by
  unfold State.laneTakesChange
  split
  · rename_i hr _ hc
    exact h.compareAt hr (by simp [hc]) _ _
  · exact h

theorem receiverTakes (h : s.Steady deep none) (p v : Lines) (r : Receiver) :
    (s.receiverTakes p v r).Steady deep none := by
  cases r with
  | watchUnit =>
    exact foldl (f := fun u i => u.evaluateWatch p v i) (fun _ i hu => hu.evaluateWatch p v i) _ h
  | lane l => exact h.laneTakesChange v l

theorem takeSample (h : s.Steady deep none) (order : List Receiver) :
    (s.takeSample order).Steady deep none := by
  unfold State.takeSample
  split
  · exact h
  · split
    · exact h.congr rfl rfl rfl
    · exact foldl (fun _ r hu => hu.receiverTakes _ _ r) _ (h.congr rfl rfl rfl)

end State.Steady

end Sys2Proof.Machine

/-!
SUPPORT. The two invariants of lanes through every command and every step: what the requests to the store
rewrite, and `State.Steady` through the handlers, the events and the dispatch.
-/

namespace Sys2Proof.Machine

/-! ### Emptied blocks -/

theorem State.refCount_of_replicate {s : State} (h : s.refs = Vector.replicate 128 0) (p : Nat) :
    s.refCount p = 0 := by
  rw [State.refCount, h, Vector.toList_replicate, List.getD_eq_getElem?_getD,
    List.getElem?_replicate]
  split <;> rfl

theorem State.lane_of_replicate {s : State} (h : s.lanes = Vector.replicate 4 Lane.cleared)
    (l : LaneId) : s.lane l = Lane.cleared := by
  simp [State.lane, h, Vector.get_eq_getElem]

/-! ### What the requests to the store rewrite (R10, R12) -/

/-- The store may be replaced by `x`: the slots of locked pages hold what they held, and the store stays in
canonical form with valid records. -/
structure State.Rewrites (s : State) (x : Sparse StepRecord) : Prop where
  locked : ∀ n, 0 < s.refCount (n / 16) → Sparse.get x n = s.slot n
  store : s.storeOk → (s.setSlots x).storeOk

theorem State.Rewrites.refl (s : State) : s.Rewrites s.slots := ⟨fun _ _ => rfl, id⟩

/-- A run of slots without a locked page may be rewritten, whatever is put there. -/
theorem State.slot_of_locked {s : State} {first n k : Nat} (h : s.lockedPage first n = none)
    (hn : first + n ≤ 2048) (hk : 0 < s.refCount (k / 16)) : ¬ (first ≤ k ∧ k < first + n) := by
  rintro ⟨h1, h2⟩
  have := (s.lockedPage_eq_none first n hn).1 h (k / 16) (by omega)
  omega

/-- A record that is read is valid (R4, R180). -/
theorem parseStep_valid {r : List Byte} {st : StepRecord} (h : parseStep r = some st) :
    st.valid = true := by
  unfold parseStep at h
  dsimp only at h
  split at h
  · cases h
  · split at h
    · split at h
      · rename_i hv; cases h; exact hv
      · cases h
    · cases h

theorem onStoreSteps_rewrites (f : Frame) (s : State) :
    ∃ x, (onStoreSteps f s).1 = s.setSlots x ∧ s.Rewrites x := by
  have hs : ∃ x, s = s.setSlots x ∧ s.Rewrites x := ⟨s.slots, rfl, .refl s⟩
  unfold onStoreSteps
  dsimp only
  split
  · exact hs
  · rename_i hin
    split
    · exact hs
    · split
      · exact hs
      · rename_i hlock
        have hlen : ((recordsOf f.payload).filterMap id).length ≤ (recordsOf f.payload).length :=
          List.length_filterMap_le _ _
        refine ⟨_, rfl, fun n hn => ?_, fun ⟨hwf, hvalid⟩ => ?_⟩
        · have := State.slot_of_locked hlock (by omega) hn
          rw [Sparse.get_putRun, if_neg (by omega)]; rfl
        · refine ⟨Sparse.putRun_wf _ _ hwf _, fun e he => ?_⟩
          rcases Sparse.mem_putRun he with ⟨-, hlt, hmem⟩ | he
          · refine ⟨by omega, ?_⟩
            simp only [List.mem_filterMap, id_eq, exists_eq_right, recordsOf, List.mem_map] at hmem
            obtain ⟨i, -, hi⟩ := hmem
            exact parseStep_valid hi
          · exact hvalid e he

theorem onEraseSteps_rewrites (f : Frame) (s : State) :
    ∃ x, (onEraseSteps f s).1 = s.setSlots x ∧ s.Rewrites x := by
  have hs : ∃ x, s = s.setSlots x ∧ s.Rewrites x := ⟨s.slots, rfl, .refl s⟩
  unfold onEraseSteps
  dsimp only
  split
  · exact hs
  · rename_i hin
    split
    · exact hs
    · rename_i hlock
      refine ⟨_, rfl, fun n hn => ?_, fun ⟨hwf, hvalid⟩ => ?_⟩
      · have := State.slot_of_locked hlock (by omega) hn
        rw [Sparse.get_eraseRun, if_neg this]; rfl
      · exact ⟨Sparse.eraseRun_wf _ hwf _ _, fun e he => hvalid e (List.mem_filter.1 he).1⟩

namespace State.Steady

variable {deep : Prop} {s t : State} {l : LaneId}

/-! ### The store, arming and clearing -/

/-- The page of a slot that a lane with a run reaches is locked (R6, R9). -/
theorem locked (h : s.Steady deep none) (hd : deep) (hs : (s.lane l).state ≠ .idle)
    {e : SegmentEntry} (he : e ∈ (s.lane l).segments) {n : Nat} (hn : n ∈ e.slots) :
    0 < s.refCount (n / 16) := by
  have hf := listValid_fieldsOk (h.lists hd l hs).1 he
  have hn' := hn
  rw [SegmentEntry.slots, List.mem_range'_1] at hn'
  simp only [SegmentEntry.fieldsOk, decide_eq_true_eq] at hf
  rw [s.refsOk_iff.1 h.refs (n / 16) (by omega)]
  refine countLanes_pos (l := l) ?_
  rw [Lane.holds_of_busy hs]
  exact touches_of_slot he hn

/-- The store is rewritten, locked pages apart. -/
theorem rewrite {x : Sparse StepRecord} (h : s.Steady deep none) (hx : s.Rewrites x) :
    (s.setSlots x).Steady deep none := by
  have hget {n : Nat} (hn : 0 < s.refCount (n / 16)) : (s.setSlots x).slot n = s.slot n :=
    hx.locked n hn
  refine ⟨h.lanes, h.refs, fun hd => hx.store (h.store hd), fun hd k hk => ?_, fun hd k _ => ?_⟩
  · obtain ⟨hv, hfill⟩ := h.lists hd k hk
    exact ⟨hv, fun e he n hn => by rw [hget (h.locked hd hk he hn)]; exact hfill e he n hn⟩
  · obtain ⟨h1, h2, h3, h4, h5, h6⟩ := h.places hd k nofun
    refine ⟨h1, h2, h3, h4, h5, fun hr => ?_⟩
    obtain ⟨hi, -, -, ho⟩ := h2 (.inl hr)
    have hn : (s.lane k).slotNumber ∈ ((s.lane k).entryAt (s.lane k).position.entry).slots := by
      rw [SegmentEntry.slots, List.mem_range'_1, Lane.slotNumber]; omega
    have hb : (s.lane k).state ≠ .idle := by rw [show (s.lane k).state = .running from hr]; decide
    have := h.locked hd hb ((s.lane k).entryAt_mem hi) hn
    exact (hget this).symm ▸ h6 hr

/-- Every lane is cleared and no page is held. -/
theorem of_cleared (hl : ∀ k, t.lane k = Lane.cleared) (hr : ∀ p, t.refCount p = 0)
    (hs : deep → t.storeOk) : t.Steady deep none := by
  refine ⟨fun k => ?_, fun p _ => ?_, hs, fun _ k hk => ?_, fun _ k _ => ?_⟩
  · rw [hl]; exact Lane.cleared_ok
  · rw [hr]; simp [countLanes, hl, Lane.cleared]
  · rw [hl] at hk; exact absurd rfl hk
  · rw [hl]; exact Lane.placed_of_waiting (.inl rfl) rfl rfl

theorem cleared (h : s.Steady deep none) : s.cleared.Steady deep none :=
  of_cleared (State.lane_of_replicate rfl) (State.refCount_of_replicate rfl) h.store

/-- Every block stands at its values of a full reset (R16, R48). -/
theorem of_blank (hl : t.lanes = State.blank.lanes) (hr : t.refs = State.blank.refs)
    (hs : t.slots = []) : t.Steady deep none :=
  of_cleared (State.lane_of_replicate hl) (State.refCount_of_replicate hr)
    fun _ => ⟨by rw [hs]; rfl, by rw [hs]; simp⟩

theorem beginReset (h : s.Steady deep none) (c : ResetCause) : (s.beginReset c).Steady deep none := by
  unfold State.beginReset
  split
  · exact of_blank rfl rfl rfl
  · exact of_blank rfl rfl rfl
  · exact h
  · exact h

/-- An IDLE lane's list or options are replaced: its flags and its position are those of no run. -/
theorem setIdle {x : Lane} (h : s.Steady deep none) (hs : (s.lane l).state = .idle)
    (hx : x.state = .idle) (hok : x.ok) (hp : x.position = (s.lane l).position) :
    (s.setLane l x).Steady deep none := by
  refine h.setLane hok (fun p => ?_) (fun _ hc => absurd hx hc) (fun hd _ => ?_)
  · rw [Lane.holds_of_idle hx, Lane.holds_of_idle hs]
  · obtain ⟨hpos, -⟩ := h.places hd l nofun
    exact Lane.placed_of_waiting (.inl hx) (hok.resumePoint_eq_none (by simp [hx]))
      (hp.trans (hpos (.inl hs)))

/-- An IDLE lane with a valid list of filled slots is armed, and its pages are locked (R40, R41). -/
theorem arm (h : s.Steady deep none) (hs : (s.lane l).state = .idle)
    (hv : listValid l (s.lane l).segments = true)
    (hfill : ∀ e ∈ (s.lane l).segments, ∀ n ∈ e.slots, s.slot n ≠ none)
    (sources : BitVec 4) (start : Stamp) :
    ((s.raiseRefs (s.lane l).segments).setLane l ((s.lane l).armedWith sources start)).Steady
      deep none := by
  have hok := (h.lanes l).armed hs sources start
  have hlane (k : LaneId) : ((s.raiseRefs (s.lane l).segments).setLane l
      ((s.lane l).armedWith sources start)).lane k =
      if l = k then (s.lane l).armedWith sources start else s.lane k :=
    State.lane_setLane _ l k _
  refine ⟨fun k => ?_, fun p hp => ?_, h.store, fun hd k => ?_, fun hd k _ => ?_⟩
  · rw [hlane]; split
    · exact hok
    · exact h.lanes k
  · have hc := countLanes_change
      (fun k => (if l = k then (s.lane l).armedWith sources start else s.lane k).holds p)
      (fun k => (s.lane k).holds p) l fun k hk => by rw [if_neg (Ne.symm hk)]
    have hnew : ((s.lane l).armedWith sources start).holds p = touches (s.lane l).segments p :=
      Lane.holds_of_busy (by simp [Lane.armedWith]) p
    simp only [if_true, hnew, Lane.holds_of_idle hs, ← s.refsOk_iff.1 h.refs p hp] at hc
    simp only [hlane]
    rw [State.setLane_refCount, s.refCount_raiseRefs _ p hp]
    change _ = countLanes fun k =>
      (if l = k then (s.lane l).armedWith sources start else s.lane k).holds p
    split
    · rename_i ht; rw [ht] at hc; simp at hc; omega
    · rename_i ht; simp only [Bool.not_eq_true] at ht; rw [ht] at hc; simp at hc; omega
  · rw [hlane]; split
    · rename_i e; subst e; exact fun _ => ⟨hv, hfill⟩
    · exact h.lists hd k
  · rw [hlane]; split
    · exact Lane.placed_of_waiting (.inr rfl) (hok.resumePoint_eq_none ⟨nofun, nofun⟩) rfl
    · exact h.places hd k nofun

/-! ### Handlers of requests -/

/-- The decoder's step of a request whose handler keeps the station in order. -/
theorem decoderStep (h : s.Steady deep none) (r : Request) {g : Handler}
    (hg : ∀ f u, u.Steady deep none → (g f u).1.Steady deep none) :
    (decoderStep r g s).Steady deep none :=
  (decoderStep_decoded r g s).keeps h (fun _ _ hu => hu.congr rfl rfl rfl) hg

theorem onLaneSet {act : LaneAct} (hact : ∀ l u, u.Steady deep none → (act l u).1.Steady deep none)
    (f : Frame) (h : s.Steady deep none) : (onLaneSet act f s).1.Steady deep none := by
  have hfold (ls : List LaneId) (acc : State × List Byte) (ha : acc.1.Steady deep none) :
      (ls.foldl (laneSetStep (byteAt f.payload 0) act) acc).1.Steady deep none := by
    induction ls generalizing acc with
    | nil => exact ha
    | cons l ls ih =>
      refine ih _ ?_
      unfold laneSetStep; split
      · exact hact l _ ha
      · exact ha
  unfold Machine.onLaneSet
  dsimp only
  split
  · exact h
  · exact hfold laneIds (s, []) h

theorem startAct (l : LaneId) (h : s.Steady deep none) : (startAct l s).1.Steady deep none := by
  have hq (hs : (s.lane l).state ≠ .idle ∧ (s.lane l).state ≠ .armed) :
      (s.setLane l (s.lane l).queueRestart).Steady deep none :=
    h.setLane_samePlace ((h.lanes l).queueRestart hs) ⟨rfl, rfl, rfl, rfl, rfl⟩
  unfold Machine.startAct
  split
  · split
    · exact h.startLane l _
    · exact h
  · exact h
  all_goals rename_i hs; exact hq (by simp [hs])

theorem pauseAct (l : LaneId) (h : s.Steady deep none) : (pauseAct l s).1.Steady deep none := by
  unfold Machine.pauseAct
  split
  · exact h.askPause l
  all_goals exact h

theorem resumeAct (l : LaneId) (h : s.Steady deep none) : (resumeAct l s).1.Steady deep none := by
  unfold Machine.resumeAct
  split
  · rename_i hs; exact h.resumeLane (.inl hs)
  · rename_i hs; exact h.resumeLane (.inr hs)
  · split
    · exact h.setLane_samePlace (h.lanes l).cancelPause ⟨rfl, rfl, rfl, rfl, rfl⟩
    · exact h
  all_goals exact h

theorem stopAct (l : LaneId) (h : s.Steady deep none) : (stopAct l s).1.Steady deep none := by
  have hq (hs : (s.lane l).state ≠ .idle ∧ (s.lane l).state ≠ .armed) :
      (s.setLane l (s.lane l).askStop).Steady deep none :=
    h.setLane_samePlace ((h.lanes l).askStop hs) ⟨rfl, rfl, rfl, rfl, rfl⟩
  unfold Machine.stopAct
  split
  iterate 3 rename_i hs; exact hq (by simp [hs])
  all_goals exact h

theorem abortAct (l : LaneId) (h : s.Steady deep none) : (abortAct l s).1.Steady deep none := by
  unfold Machine.abortAct
  split
  · exact h
  all_goals exact h.abortLane l _

theorem onArm (f : Frame) (h : s.Steady deep none) : (onArm f s).1.Steady deep none := by
  unfold Machine.onArm
  dsimp only
  split
  · exact h
  · rename_i l _
    split
    · exact h
    · rename_i hs
      split
      · exact h
      · rename_i hv
        split
        · exact h
        · rename_i hfill
          repeat' split
          · exact h
          · exact h
          · refine h.arm (by simpa using hs) (by simpa using hv) (fun e he n hn hc => ?_) _ _
            rw [State.lowestEmpty, List.min?_eq_none_iff, List.filter_eq_nil_iff] at hfill
            exact hfill n (List.mem_flatMap.2 ⟨e, he, hn⟩) (by simp [hc])

theorem onSetSegments (f : Frame) (h : s.Steady deep none) : (onSetSegments f s).1.Steady deep none := by
  unfold Machine.onSetSegments
  dsimp only
  split
  · exact h
  · split
    · exact h
    · rename_i hs
      have hs := not_not.1 hs
      repeat' split
      · exact h
      · exact h
      · exact h.setIdle hs hs (h.lanes _) rfl
      · exact h

theorem onSetLane (f : Frame) (h : s.Steady deep none) : (onSetLane f s).1.Steady deep none := by
  unfold Machine.onSetLane
  split
  · exact h
  · split
    · exact h
    · split
      · exact h
      · exact h.setLane_samePlace (h.lanes _) ⟨rfl, rfl, rfl, rfl, rfl⟩

theorem onSetTime (f : Frame) (h : s.Steady deep none) : (onSetTime f s).1.Steady deep none := by
  have hfold (ls : List LaneId) (acc : State × Nat) (ha : acc.1.Steady deep none) :
      (ls.foldl judgeTrigger acc).1.Steady deep none := by
    induction ls generalizing acc with
    | nil => exact ha
    | cons l ls ih =>
      refine ih _ ?_
      unfold judgeTrigger; dsimp only; split
      · exact ha.startLane l _
      · exact ha
  have hjudged : (State.judgeTriggers
      { s with timestamp := wordAt f.payload 0 + s.elapsedSince f }).1.Steady deep none :=
    hfold laneIds _ (h.congr rfl rfl rfl)
  unfold Machine.onSetTime
  dsimp only
  refine foldl (f := State.judgeHoldoff) (fun u w hu => ?_) watchIds hjudged
  unfold State.judgeHoldoff
  repeat' split
  · exact hu.congr rfl rfl rfl
  · exact hu
  · exact hu

theorem expireGuard (h : s.Steady deep none) : s.expireGuard.Steady deep none := by
  have hg : (s.setGuard .expired).Steady deep none := h.congr rfl rfl rfl
  exact ((foldl (f := fun u l => u.abortLane l .abortedGuard)
    (fun _ l hu => hu.abortLane l _) laneIds hg).takeRecord _).raise _ _

/-! ### Commands and steps -/

theorem outsideReset {f : State → State} (h : s.Steady deep none)
    (hf : (f s).Steady deep none) : (s.outsideReset f).Steady deep none := by
  unfold State.outsideReset; split
  · exact hf
  · exact h

theorem releaseLine (h : s.Steady deep none) : s.releaseLine.Steady deep none := by
  have hk (k : Link) : (s.setLink k).Steady deep none := h.congr rfl rfl rfl
  unfold State.releaseLine
  split
  · exact h
  · dsimp only
    split
    · exact (hk _).beginReset _
    · exact hk _

theorem receiver (h : s.Steady deep none) (ht : ReceiverWork s t) : t.Steady deep none := by
  rw [ht.frame]; exact h.congr rfl rfl rfl

/-- The state that a command answers. -/
theorem of_next {u : State} (h : u.Steady deep none)
    (ht : (.next u : Host.Outcome State Fault Refusal) = .next t) : t.Steady deep none := by
  cases ht; exact h


end State.Steady

end Sys2Proof.Machine

/-!
SUPPORT. The state that each request's handler leaves, said once: which block it replaces, if any.
-/

namespace Sys2Proof.Machine

variable (f : Frame) (s : State)

/-! ### Requests that read -/

theorem onReadSteps_state : (onReadSteps f s).1 = s := by
  unfold onReadSteps; dsimp only; split <;> rfl

theorem onPageStatus_state : (onPageStatus f s).1 = s := by
  unfold onPageStatus; dsimp only; split <;> rfl

theorem onReadSegments_state : (onReadSegments f s).1 = s := by
  unfold onReadSegments; split <;> rfl

theorem onLaneStatus_state : (onLaneStatus f s).1 = s := by
  unfold onLaneStatus; split <;> rfl

theorem onReadRing_state : (onReadRing f s).1 = s := by
  unfold onReadRing; dsimp only; split
  · rfl
  · split <;> rfl

/-! ### Requests that replace a block -/

theorem onJoinGroups_state : ∃ g, (onJoinGroups f s).1 = s.setLink { s.link with groups := g } := by
  unfold onJoinGroups; split
  · exact ⟨s.link.groups, rfl⟩
  · exact ⟨_, rfl⟩

theorem onLinkStatus_state :
    ∃ k, (onLinkStatus f s).1 = s.setLink k ∧ k.SameSettings s.link := by
  unfold onLinkStatus; split
  · exact ⟨s.link, rfl, rfl, rfl, rfl, rfl⟩
  · split
    · exact ⟨_, rfl, rfl, rfl, rfl, rfl⟩
    · exact ⟨s.link, rfl, rfl, rfl, rfl, rfl⟩

theorem onSetGuard_state :
    ∃ p g, (onSetGuard f s).1 = State.setGuard { s with guardPeriod := p } g :=
  ⟨BitVec.ofNat 16 (fieldAt f.payload 0 2),
    guardFor (BitVec.ofNat 16 (fieldAt f.payload 0 2)) s.now, rfl⟩

theorem onClaimLines_state : ∃ c, (onClaimLines f s).1 = s.setClaims c := by
  unfold onClaimLines; dsimp only
  repeat' split
  iterate 4 exact ⟨s.claims, rfl⟩
  exact ⟨_, rfl⟩

theorem onReleaseLines_state : ∃ c, (onReleaseLines f s).1 = s.setClaims c := by
  unfold onReleaseLines
  repeat' split
  iterate 2 exact ⟨s.claims, rfl⟩
  exact ⟨_, rfl⟩

theorem onSetSegments_state : ∃ xs, (onSetSegments f s).1 = { s with lanes := xs } := by
  unfold onSetSegments; dsimp only
  repeat' split
  iterate 4 exact ⟨s.lanes, rfl⟩
  · exact ⟨_, rfl⟩
  · exact ⟨s.lanes, rfl⟩

theorem onSetLane_state : ∃ xs, (onSetLane f s).1 = { s with lanes := xs } := by
  unfold onSetLane
  repeat' split
  iterate 3 exact ⟨s.lanes, rfl⟩
  exact ⟨_, rfl⟩

theorem onSetWatch_state : ∃ ws, (onSetWatch f s).1 = { s with watches := ws } := by
  unfold onSetWatch
  repeat' split
  iterate 2 exact ⟨s.watches, rfl⟩
  exact ⟨_, rfl⟩

theorem onEnableWatches_state : ∃ ws, (onEnableWatches f s).1 = { s with watches := ws } := by
  have hfold (set : Byte) (enable : Bool) (is : List WatchId) (acc : State × List Byte)
      (ha : ∃ ws, acc.1 = { s with watches := ws }) :
      ∃ ws, (is.foldl (enableStep set enable) acc).1 = { s with watches := ws } := by
    induction is generalizing acc with
    | nil => exact ha
    | cons i is ih =>
      refine ih _ ?_
      obtain ⟨ws, e⟩ := ha
      unfold enableStep; split
      · rw [e]; exact ⟨_, rfl⟩
      · exact ⟨ws, e⟩
  unfold onEnableWatches; dsimp only
  split
  · exact ⟨s.watches, rfl⟩
  · split
    · exact ⟨s.watches, rfl⟩
    · exact hfold _ _ watchIds (s, []) ⟨s.watches, rfl⟩

theorem onSetRing_state : ∃ r, (onSetRing f s).1 = s.setRing r := by
  unfold onSetRing; dsimp only
  repeat' split
  iterate 2 exact ⟨s.ring, rfl⟩
  exact ⟨_, rfl⟩

theorem onSetNoticeMask_state : ∃ n, (onSetNoticeMask f s).1 = s.setNotices n := by
  unfold onSetNoticeMask; dsimp only
  split
  · exact ⟨s.notices, rfl⟩
  · exact ⟨_, rfl⟩

theorem onPoll_state : ∃ n, (onPoll f s).1 = s.setNotices n ∧ n.mask = s.notices.mask := by
  unfold onPoll; split
  · exact ⟨s.notices, rfl, rfl⟩
  · refine ⟨_, rfl, ?_⟩
    split <;> rfl

/-- SET_TIME writes the timestamp and, of the watches, their holdoffs; the rest of its work is lane work
(R164, R165). -/
theorem onSetTime_state : ∃ stamp u ws, LaneWork { s with timestamp := stamp } u
    ∧ (onSetTime f s).1 = { u with watches := ws } := by
  have hlanes (ls : List LaneId) (acc : State × Nat) :
      LaneWork acc.1 (ls.foldl judgeTrigger acc).1 := by
    induction ls generalizing acc with
    | nil => exact .refl _
    | cons l ls ih =>
      refine LaneWork.trans ?_ (ih _)
      unfold judgeTrigger; dsimp only; split
      · exact acc.1.startLane_work l _
      · exact .refl _
  have hwatches (is : List WatchId) (u : State) :
      ∃ ws, is.foldl State.judgeHoldoff u = { u with watches := ws } := by
    induction is generalizing u with
    | nil => exact ⟨u.watches, rfl⟩
    | cons i is ih =>
      obtain ⟨ws, e⟩ := ih (u.judgeHoldoff i)
      rw [List.foldl_cons, e]
      unfold State.judgeHoldoff
      repeat' split
      all_goals exact ⟨ws, rfl⟩
  have htriggers (u : State) : LaneWork u u.judgeTriggers.1 := hlanes laneIds (u, 0)
  unfold onSetTime
  dsimp only
  generalize hu : ({ s with timestamp := wordAt f.payload 0 + s.elapsedSince f } : State) = u
  obtain ⟨ws, e⟩ := hwatches watchIds u.judgeTriggers.1
  refine ⟨wordAt f.payload 0 + s.elapsedSince f, u.judgeTriggers.1, ws, ?_, e⟩
  rw [hu]; exact htriggers u

/-- ARM does the work of a lane (R41). -/
theorem onArm_work : LaneWork s (onArm f s).1 := by
  unfold onArm; dsimp only
  repeat' split
  iterate 6 exact .refl s
  exact (s.raiseRefs_work _).trans (State.setLane_work _ _ _)

/-- A lane-set request does the work of its lanes (R83). -/
theorem onLaneSet_work {act : LaneAct} (hact : ∀ l u, LaneWork u (act l u).1) :
    LaneWork s (onLaneSet act f s).1 := by
  have hfold (ls : List LaneId) (acc : State × List Byte) :
      LaneWork acc.1 (ls.foldl (laneSetStep (byteAt f.payload 0) act) acc).1 := by
    induction ls generalizing acc with
    | nil => exact .refl _
    | cons l ls ih =>
      refine LaneWork.trans ?_ (ih _)
      unfold laneSetStep; split
      · exact hact l _
      · exact .refl _
  unfold onLaneSet; dsimp only
  split
  · exact .refl s
  · exact hfold laneIds (s, [])

theorem startAct_work (l : LaneId) : LaneWork s (startAct l s).1 := by
  unfold startAct; split
  · split
    · exact s.startLane_work _ _
    · exact .refl s
  · exact .refl s
  all_goals exact s.setLane_work _ _

theorem pauseAct_work (l : LaneId) : LaneWork s (pauseAct l s).1 := by
  unfold pauseAct; split
  · exact s.askPause_work _
  all_goals exact .refl s

theorem resumeAct_work (l : LaneId) : LaneWork s (resumeAct l s).1 := by
  unfold resumeAct; split
  iterate 2 exact s.resumeLane_work _
  · split
    · exact s.setLane_work _ _
    · exact .refl s
  all_goals exact .refl s

theorem stopAct_work (l : LaneId) : LaneWork s (stopAct l s).1 := by
  unfold stopAct; split
  iterate 3 exact s.setLane_work _ _
  all_goals exact .refl s

theorem abortAct_work (l : LaneId) : LaneWork s (abortAct l s).1 := by
  unfold abortAct; split
  · exact .refl s
  all_goals exact s.abortLane_work _ _

end Sys2Proof.Machine

/-!
SUPPORT. The commands as requests and events: the handler of each request, and a case split that takes the 34
requests as one case. Then the two invariants of lanes through every command and step.
-/

namespace Sys2Proof.Machine

/-- What the blocks do with a request (R152). -/
def Request.handler : Request → Handler
  | .identify => onIdentify
  | .setLink => onSetLink
  | .joinGroups => onJoinGroups
  | .linkStatus => onLinkStatus
  | .readTime => onReadTime
  | .setTime => onSetTime
  | .setGuard => onSetGuard
  | .restart => onRestart
  | .clear => onClear
  | .storeSteps => onStoreSteps
  | .eraseSteps => onEraseSteps
  | .readSteps => onReadSteps
  | .pageStatus => onPageStatus
  | .claimLines => onClaimLines
  | .releaseLines => onReleaseLines
  | .readLines => onReadLines
  | .setSegments => onSetSegments
  | .readSegments => onReadSegments
  | .setLane => onSetLane
  | .arm => onArm
  | .start => onLaneSet startAct
  | .pause => onLaneSet pauseAct
  | .resume => onLaneSet resumeAct
  | .stop => onLaneSet stopAct
  | .abort => onLaneSet abortAct
  | .laneStatus => onLaneStatus
  | .setWatch => onSetWatch
  | .enableWatches => onEnableWatches
  | .watchStatus => onWatchStatus
  | .setRing => onSetRing
  | .readRing => onReadRing
  | .trimRing => onTrimRing
  | .setNoticeMask => onSetNoticeMask
  | .poll => onPoll

/-- The command of a request is the decoder's step with its handler. -/
theorem exec_command (r : Request) (s : State) :
    exec r.command s = .next (decoderStep r r.handler s) := by
  cases r <;> rfl

/-- Every command is that of a request or one of the events. -/
theorem Instr.byRequest {P : Instr → Prop} (c : Instr) (request : ∀ r : Request, P r.command)
    (frameReceived : ∀ b m, P (.frameReceived b m)) (framingError : ∀ m, P (.framingError m))
    (gapTimeout : P .gapTimeout) (badKind : P .badKind) (replyDelayExpiry : P .replyDelayExpiry)
    (replyEnd : P .replyEnd) (collision : ∀ i b, P (.collision i b))
    (changeEvent : ∀ o rs, P (.changeEvent o rs)) (openingComparison : ∀ l, P (.openingComparison l))
    (holdExpiry : ∀ l, P (.holdExpiry l)) (awaitTimeout : ∀ l, P (.awaitTimeout l))
    (timeTrigger : ∀ l, P (.timeTrigger l)) (holdoffExpiry : ∀ w, P (.holdoffExpiry w))
    (guardExpiry : P .guardExpiry) (powerReset : P .powerReset) (resetPin : P .resetPin)
    (fullResetEnd : ∀ a d o, P (.fullResetEnd a d o)) (byteReceived : ∀ b m, P (.byteReceived b m)) :
    P c := by
  cases c with
  | frameReceived b m => exact frameReceived b m
  | framingError m => exact framingError m
  | gapTimeout => exact gapTimeout
  | badKind => exact badKind
  | replyDelayExpiry => exact replyDelayExpiry
  | replyEnd => exact replyEnd
  | collision i b => exact collision i b
  | changeEvent o rs => exact changeEvent o rs
  | openingComparison l => exact openingComparison l
  | holdExpiry l => exact holdExpiry l
  | awaitTimeout l => exact awaitTimeout l
  | timeTrigger l => exact timeTrigger l
  | holdoffExpiry w => exact holdoffExpiry w
  | guardExpiry => exact guardExpiry
  | powerReset => exact powerReset
  | resetPin => exact resetPin
  | fullResetEnd a d o => exact fullResetEnd a d o
  | byteReceived b m => exact byteReceived b m
  | identify => exact request .identify
  | setLink => exact request .setLink
  | joinGroups => exact request .joinGroups
  | linkStatus => exact request .linkStatus
  | readTime => exact request .readTime
  | setTime => exact request .setTime
  | setGuard => exact request .setGuard
  | restart => exact request .restart
  | clear => exact request .clear
  | storeSteps => exact request .storeSteps
  | eraseSteps => exact request .eraseSteps
  | readSteps => exact request .readSteps
  | pageStatus => exact request .pageStatus
  | claimLines => exact request .claimLines
  | releaseLines => exact request .releaseLines
  | readLines => exact request .readLines
  | setSegments => exact request .setSegments
  | readSegments => exact request .readSegments
  | setLane => exact request .setLane
  | arm => exact request .arm
  | start => exact request .start
  | pause => exact request .pause
  | resume => exact request .resume
  | stop => exact request .stop
  | abort => exact request .abort
  | laneStatus => exact request .laneStatus
  | setWatch => exact request .setWatch
  | enableWatches => exact request .enableWatches
  | watchStatus => exact request .watchStatus
  | setRing => exact request .setRing
  | readRing => exact request .readRing
  | trimRing => exact request .trimRing
  | setNoticeMask => exact request .setNoticeMask
  | poll => exact request .poll

namespace State.Steady

variable {deep : Prop} {s t : State}

/-- Every request's handler keeps the station in order. -/
theorem handler (h : s.Steady deep none) (r : Request) (f : Frame) :
    (r.handler f s).1.Steady deep none := by
  cases r with
  | identify | readTime | restart | readLines | watchStatus => exact h
  | setLink => exact h.congr rfl rfl rfl
  | setGuard => exact h.congr rfl rfl rfl
  | joinGroups => obtain ⟨g, e⟩ := onJoinGroups_state f s; exact h.congr_of_eq e rfl rfl rfl
  | linkStatus => obtain ⟨k, e, -⟩ := onLinkStatus_state f s; exact h.congr_of_eq e rfl rfl rfl
  | setTime => exact h.onSetTime f
  | clear => exact h.cleared
  | storeSteps => obtain ⟨x, e, hx⟩ := onStoreSteps_rewrites f s; exact e ▸ h.rewrite hx
  | eraseSteps => obtain ⟨x, e, hx⟩ := onEraseSteps_rewrites f s; exact e ▸ h.rewrite hx
  | readSteps => exact (onReadSteps_state f s).symm ▸ h
  | pageStatus => exact (onPageStatus_state f s).symm ▸ h
  | claimLines => obtain ⟨c, e⟩ := onClaimLines_state f s; exact h.congr_of_eq e rfl rfl rfl
  | releaseLines => obtain ⟨c, e⟩ := onReleaseLines_state f s; exact h.congr_of_eq e rfl rfl rfl
  | setSegments => exact h.onSetSegments f
  | readSegments => exact (onReadSegments_state f s).symm ▸ h
  | setLane => exact h.onSetLane f
  | arm => exact h.onArm f
  | start => exact h.onLaneSet (fun l _ hu => hu.startAct l) f
  | pause => exact h.onLaneSet (fun l _ hu => hu.pauseAct l) f
  | resume => exact h.onLaneSet (fun l _ hu => hu.resumeAct l) f
  | stop => exact h.onLaneSet (fun l _ hu => hu.stopAct l) f
  | abort => exact h.onLaneSet (fun l _ hu => hu.abortAct l) f
  | laneStatus => exact (onLaneStatus_state f s).symm ▸ h
  | setWatch => obtain ⟨ws, e⟩ := onSetWatch_state f s; exact h.congr_of_eq e rfl rfl rfl
  | enableWatches => obtain ⟨ws, e⟩ := onEnableWatches_state f s; exact h.congr_of_eq e rfl rfl rfl
  | setRing => obtain ⟨r, e⟩ := onSetRing_state f s; exact h.congr_of_eq e rfl rfl rfl
  | readRing => exact (onReadRing_state f s).symm ▸ h
  | trimRing => exact h.congr rfl rfl rfl
  | setNoticeMask => obtain ⟨n, e⟩ := onSetNoticeMask_state f s; exact h.congr_of_eq e rfl rfl rfl
  | poll => obtain ⟨n, e, -⟩ := onPoll_state f s; exact h.congr_of_eq e rfl rfl rfl

/-- Every command keeps the station in order. -/
theorem exec {c : Instr} (h : s.Steady deep none) (ht : exec c s = .next t) :
    t.Steady deep none := by
  have hlink (k : Link) : (s.setLink k).Steady deep none := h.congr rfl rfl rfl
  cases c using Instr.byRequest with
  | request r =>
    rw [exec_command] at ht
    exact (h.decoderStep r fun f _ hu => hu.handler r f).of_next ht
  | frameReceived b m =>
    refine (h.outsideReset ?_).of_next ht
    split
    · exact h.receiver (s.receiveByte_work b m)
    · exact h
  | byteReceived b m => exact (h.outsideReset (h.receiver (s.receiveByte_work b m))).of_next ht
  | framingError m =>
    refine (h.outsideReset ?_).of_next ht
    split
    · exact hlink _
    · exact h
  | gapTimeout =>
    refine (h.outsideReset ?_).of_next ht
    split
    · exact hlink _
    · exact h
  | badKind => obtain ⟨k, rfl, -⟩ := execBadKind_link ht; exact hlink k
  | replyDelayExpiry =>
    refine (h.outsideReset ?_).of_next ht
    split
    · split
      · exact hlink _
      · exact h
    · exact h
  | replyEnd =>
    refine (h.outsideReset ?_).of_next ht
    split
    · exact h.releaseLine
    · exact h
  | collision i b =>
    refine (h.outsideReset ?_).of_next ht
    split
    · exact (hlink _).releaseLine
    · exact h
  | changeEvent o rs =>
    have ho : State.Steady deep none { s with outside := o } := h.congr rfl rfl rfl
    exact (h.outsideReset (ho.takeSample rs)).of_next ht
  | openingComparison l =>
    refine (h.outsideReset ?_).of_next ht
    split
    · rename_i st hst
      split
      · rename_i hdue
        have hr := State.openingDue_running hdue
        have h' := h.setLane_samePlace (x := { s.lane l with opened := true }) (h.lanes l)
          ⟨rfl, rfl, rfl, rfl, rfl⟩
        exact h'.compareAt (by simpa using hr) (by simp [hst]) st s.sampled
      · exact h
    · exact h
  | holdExpiry l =>
    refine (h.outsideReset ?_).of_next ht
    split
    · split
      · rename_i hdue; exact h.holdExpires (Lane.timerDue_running hdue) _
      · exact h
    · exact h
  | awaitTimeout l =>
    refine (h.outsideReset ?_).of_next ht
    split
    · rename_i hst
      split
      · rename_i hdue; exact h.limitExpires (Lane.timerDue_running hdue) (by simp [hst]) _
      · exact h
    · exact h
  | timeTrigger l =>
    refine (h.outsideReset ?_).of_next ht
    split
    · exact h.startLane l _
    · exact h
  | holdoffExpiry w =>
    refine (h.outsideReset ?_).of_next ht
    split
    · exact h.congr rfl rfl rfl
    · exact h
  | guardExpiry =>
    refine (h.outsideReset ?_).of_next ht
    split
    · exact h.expireGuard
    · exact h
  | powerReset => exact (h.beginReset _).of_next ht
  | resetPin => exact (h.beginReset _).of_next ht
  | fullResetEnd a d o =>
    refine of_next ?_ ht
    split
    · exact of_blank rfl rfl rfl
    · exact h

/-- Every step keeps the station in order. -/
theorem step (h : s.Steady deep none) (ht : step s = .next t) : t.Steady deep none := by
  have hrest (rest : List Instr) : State.Steady deep none { s with pending := rest } :=
    h.congr rfl rfl rfl
  have hfree (n : Nat) : State.Steady deep none { s with freeIx := n } := h.congr rfl rfl rfl
  refine step_cases ht (fun c rest _ hc => (hrest rest).exec hc) (fun _ hi => ?_)
  unfold idle at hi
  split at hi
  · refine of_next ?_ hi
    unfold State.tick
    split <;> exact h.congr rfl rfl rfl
  · exact (hfree _).exec hi
  · exact (hfree _).exec hi

end State.Steady

/-- Settles O54: a station in order, without regard to lists and places, is kept in order by every step. -/
theorem stepKeepsLanesAndReferences : Obligations.StepKeepsLanesAndReferences := by
  intro s t hl hr ht
  have h : s.Steady False none := ⟨hl, hr, False.elim, False.elim, False.elim⟩
  have h' := h.step ht
  exact ⟨h'.lanes, h'.refs⟩

/-- Settles O55: the same walk through the operations, with store, lists and places in regard. -/
theorem stepKeepsRunsOnFilledSlots : Obligations.StepKeepsRunsOnFilledSlots := by
  intro s t hl hr hs hls hps ht
  have h : s.Steady True none :=
    ⟨hl, hr, fun _ => hs, fun _ => s.listsOk_iff.1 hls, fun _ k _ => s.positionsOk_iff.1 hps k⟩
  have h' := h.step ht
  exact ⟨h'.store trivial, t.listsOk_iff.2 (h'.lists trivial),
    t.positionsOk_iff.2 fun k => h'.places trivial k nofun⟩

end Sys2Proof.Machine

/-!
SUPPORT. Which fields each command may write outside a reset, in one table (`Field.WrittenBy`), and that it writes
no other. From it: what may change only at which commands, and that locked pages do not change.
-/

namespace Sys2Proof.Machine

/-! ### The fields and who writes them -/

/-- The fields of the state that only some commands may write. -/
inductive Field where
  | pending
  | now
  | timestamp
  | guardPeriod
  | guard
  | sampled
  | outside
  | sampleAt
  | slots
  | claims
  | address
  | rate
  | groups
  | replyDelay
  | groupStore
  | unicastStore
  | watches
  | policy
  | threshold
  | mask

/-- The values of a field. -/
def Field.Val : Field → Type
  | .pending => List Instr
  | .now => Moment
  | .timestamp => Stamp
  | .guardPeriod => BitVec 16
  | .guard => GuardState
  | .sampled => Lines
  | .outside => Outside
  | .sampleAt => Moment
  | .slots => Sparse StepRecord
  | .claims => Vector LineClaim 40
  | .address => BitVec 5
  | .rate => BitVec 2
  | .groups => BitVec 16
  | .replyDelay => BitVec 8
  | .groupStore => Option (Byte × Byte)
  | .unicastStore => Option StoredReply
  | .watches => Vector Watch 8
  | .policy => RingPolicy
  | .threshold => Nat
  | .mask => BitVec 16

/-- What a field holds in a state. -/
def Field.val : (F : Field) → State → F.Val
  | .pending, s => s.pending
  | .now, s => s.now
  | .timestamp, s => s.timestamp
  | .guardPeriod, s => s.guardPeriod
  | .guard, s => s.guard
  | .sampled, s => s.sampled
  | .outside, s => s.outside
  | .sampleAt, s => s.sampleAt
  | .slots, s => s.slots
  | .claims, s => s.claims
  | .address, s => s.link.address
  | .rate, s => s.link.rate
  | .groups, s => s.link.groups
  | .replyDelay, s => s.link.replyDelay
  | .groupStore, s => s.link.groupStore
  | .unicastStore, s => s.link.unicastStore
  | .watches, s => s.watches
  | .policy, s => s.ring.policy
  | .threshold, s => s.ring.threshold
  | .mask, s => s.notices.mask

/-- The commands that may write a field outside a reset. Every request may leave a repeat store behind (R152). -/
def Field.WrittenBy : Field → Instr → Prop
  | .pending, _ | .now, _ | .address, _ | .rate, _ => False
  | .timestamp, c => c = .setTime
  | .guardPeriod, c => c = .setGuard
  | .guard, c =>
    c = .setGuard ∨ c = .guardExpiry ∨ (∃ b m, c = .byteReceived b m) ∨ ∃ b m, c = .frameReceived b m
  | .sampled, c | .outside, c | .sampleAt, c => ∃ o rs, c = .changeEvent o rs
  | .slots, c => c = .storeSteps ∨ c = .eraseSteps
  | .claims, c => c = .claimLines ∨ c = .releaseLines ∨ c = .clear
  | .groups, c => c = .joinGroups
  | .replyDelay, c => c = .setLink
  | .groupStore, c => ∃ r : Request, c = r.command
  | .unicastStore, c => (∃ r : Request, c = r.command) ∨ c = .badKind
  | .watches, c =>
    c = .setWatch ∨ c = .enableWatches ∨ c = .setTime ∨ c = .clear
      ∨ (∃ o rs, c = .changeEvent o rs) ∨ ∃ w, c = .holdoffExpiry w
  | .policy, c | .threshold, c => c = .setRing
  | .mask, c => c = .setNoticeMask

section

variable {s t : State} {F : Field}

/-! ### The kinds of work -/

theorem LaneWork.val (h : LaneWork s t) (F : Field) : F.val t = F.val s := by
  have hmask : t.notices.mask = s.notices.mask :=
    h.notices (fun n => n.mask = s.notices.mask) (fun n k d hn => (n.raise_mask k d).trans hn) rfl
  cases F with
  | pending => exact h.pending
  | now => exact h.now
  | timestamp => exact h.timestamp
  | guardPeriod => exact h.guardPeriod
  | guard => exact h.guard
  | sampled => exact h.sampled
  | outside => exact h.outside
  | sampleAt => exact h.sampleAt
  | slots => exact h.slots
  | claims => exact h.claims
  | address => exact congrArg Link.address h.link
  | rate => exact congrArg Link.rate h.link
  | groups => exact congrArg Link.groups h.link
  | replyDelay => exact congrArg Link.replyDelay h.link
  | groupStore => exact congrArg Link.groupStore h.link
  | unicastStore => exact congrArg Link.unicastStore h.link
  | watches => exact h.watches
  | policy => exact h.policy
  | threshold => exact h.threshold
  | mask => exact hmask

/-! ### Blocks replaced -/

theorem State.withWatches_val (ws : Vector Watch 8) (hF : F ≠ .watches) :
    F.val { s with watches := ws } = F.val s := by
  cases F with
  | watches => exact absurd rfl hF
  | _ => rfl

theorem State.withTimestamp_val (x : Stamp) (hF : F ≠ .timestamp) :
    F.val { s with timestamp := x } = F.val s := by
  cases F with
  | timestamp => exact absurd rfl hF
  | _ => rfl

theorem State.withGuardPeriod_val (p : BitVec 16) (hp : F ≠ .guardPeriod) :
    F.val { s with guardPeriod := p } = F.val s := by
  cases F with
  | guardPeriod => exact absurd rfl hp
  | _ => rfl

theorem State.setGuard_val (g : GuardState) (hg : F ≠ .guard) :
    F.val (s.setGuard g) = F.val s := by
  cases F with
  | guard => exact absurd rfl hg
  | _ => rfl

theorem State.setSlots_val (x : Sparse StepRecord) (hF : F ≠ .slots) :
    F.val (s.setSlots x) = F.val s := by
  cases F with
  | slots => exact absurd rfl hF
  | _ => rfl

theorem State.setClaims_val (c : Vector LineClaim 40) (hF : F ≠ .claims) :
    F.val (s.setClaims c) = F.val s := by
  cases F with
  | claims => exact absurd rfl hF
  | _ => rfl

theorem State.withLanes_val (xs : Vector Lane 4) (F : Field) :
    F.val { s with lanes := xs } = F.val s := by
  cases F <;> rfl

theorem State.setRing_val {r : Ring} (hp : F = .policy → r.policy = s.ring.policy)
    (ht : F = .threshold → r.threshold = s.ring.threshold) : F.val (s.setRing r) = F.val s := by
  cases F with
  | policy => exact hp rfl
  | threshold => exact ht rfl
  | _ => rfl

theorem State.setNotices_val {n : NoticeSet} (hm : F = .mask → n.mask = s.notices.mask) :
    F.val (s.setNotices n) = F.val s := by
  cases F with
  | mask => exact hm rfl
  | _ => rfl

/-- The link blocks are replaced, with their settings kept. -/
theorem State.setLink_val {k : Link} (hk : k.SameSettings s.link)
    (hg : F = .groupStore → k.groupStore = s.link.groupStore)
    (hu : F = .unicastStore → k.unicastStore = s.link.unicastStore) :
    F.val (s.setLink k) = F.val s := by
  cases F with
  | address => exact hk.address
  | rate => exact hk.rate
  | groups => exact hk.groups
  | replyDelay => exact hk.replyDelay
  | groupStore => exact hg rfl
  | unicastStore => exact hu rfl
  | _ => rfl

theorem State.cleared_val (hc : F ≠ .claims) (hw : F ≠ .watches) :
    F.val s.cleared = F.val s := by
  cases F with
  | claims => exact absurd rfl hc
  | watches => exact absurd rfl hw
  | _ => rfl

theorem WatchWork.val (h : WatchWork s t) (hF : F ≠ .watches) : F.val t = F.val s := by
  have hl : LaneWork { s with watches := t.watches } t := ⟨h.frame, h.notices, h.fill, h.threshold, h.policy⟩
  rw [hl.val F, State.withWatches_val _ hF]

theorem ReceiverWork.val (h : ReceiverWork s t) (hg : F = .guard → t.guard = s.guard) :
    F.val t = F.val s := by
  have hl := h.link
  have hk : t.link.SameSettings s.link := by rw [hl]; exact ⟨rfl, rfl, rfl, rfl⟩
  have e : F.val t = F.val (s.setLink t.link) := by
    rw [h.frame]
    cases F with
    | guard => exact hg rfl
    | _ => rfl
  rw [e, State.setLink_val hk (fun _ => by rw [hl]) (fun _ => by rw [hl])]

/-- The sampler writes what it samples, and the receivers of a change event the watches (R22, R23). -/
theorem State.takeSample_val (o : Outside) (rs : List Receiver) (hF : ¬ F.WrittenBy (.changeEvent o rs)) :
    F.val (State.takeSample { s with outside := o } rs) = F.val s := by
  have hw : F ≠ .watches := by rintro rfl; exact hF (.inr (.inr (.inr (.inr (.inl ⟨o, rs, rfl⟩)))))
  have hs (v : Lines) (m : Moment) :
      F.val { s with outside := o, sampled := v, sampleAt := m } = F.val s := by
    cases F with
    | sampled | outside | sampleAt => exact absurd ⟨o, rs, rfl⟩ hF
    | _ => rfl
  unfold State.takeSample
  split
  · exact hs s.sampled s.sampleAt
  · split
    · exact hs s.sampled s.now
    · exact ((State.deliverSample_work _ _ _).val hw).trans (hs _ s.now)

/-! ### Requests -/

/-- What a handler and the repeat stores leave alone, the decoder's step leaves alone. -/
theorem State.Decoded.val {h : Handler} (ht : s.Decoded h t) (hg : F ≠ .groupStore)
    (hu : F ≠ .unicastStore) (hh : ∀ f u, F.val (h f u).1 = F.val u) : F.val t = F.val s := by
  obtain ⟨u, k, hfrom, rfl, hk⟩ := ht
  rw [State.setLink_val hk (absurd · hg) (absurd · hu)]
  rcases hfrom with rfl | ⟨f, rest, rfl⟩
  · rfl
  · rw [hh]; exact State.setLink_val ⟨rfl, rfl, rfl, rfl⟩ (fun _ => rfl) (fun _ => rfl)

/-- A handler writes no field but those of its request. -/
theorem Request.handler_val (r : Request) (hF : ¬ F.WrittenBy r.command) (f : Frame)
    (s : State) : F.val (r.handler f s).1 = F.val s := by
  have hne {G : Field} (hG : G.WrittenBy r.command) : F ≠ G := by rintro rfl; exact hF hG
  cases r with
  | identify | readTime | restart | readLines | watchStatus => rfl
  | readSteps => exact congrArg F.val (onReadSteps_state f s)
  | pageStatus => exact congrArg F.val (onPageStatus_state f s)
  | readSegments => exact congrArg F.val (onReadSegments_state f s)
  | laneStatus => exact congrArg F.val (onLaneStatus_state f s)
  | readRing => exact congrArg F.val (onReadRing_state f s)
  | setLink =>
    cases F with
    | replyDelay => exact absurd rfl hF
    | _ => rfl
  | joinGroups =>
    obtain ⟨g, e⟩ := onJoinGroups_state f s
    refine (congrArg F.val e).trans ?_
    cases F with
    | groups => exact absurd rfl hF
    | _ => rfl
  | linkStatus =>
    obtain ⟨k, e, hk⟩ := onLinkStatus_state f s
    exact (congrArg F.val e).trans (State.setLink_val hk (absurd · (hne ⟨.linkStatus, rfl⟩))
      (absurd · (hne (.inl ⟨.linkStatus, rfl⟩))))
  | setTime =>
    obtain ⟨x, u, ws, hw, e⟩ := onSetTime_state f s
    exact (congrArg F.val e).trans ((State.withWatches_val ws (hne (.inr (.inr (.inl rfl))))).trans
      ((hw.val F).trans (State.withTimestamp_val x (hne rfl))))
  | setGuard =>
    obtain ⟨p, g, e⟩ := onSetGuard_state f s
    exact (congrArg F.val e).trans ((State.setGuard_val g (hne (.inl rfl))).trans
      (State.withGuardPeriod_val p (hne rfl)))
  | clear => exact State.cleared_val (hne (.inr (.inr rfl))) (hne (.inr (.inr (.inr (.inl rfl)))))
  | storeSteps =>
    obtain ⟨x, e, -⟩ := onStoreSteps_rewrites f s
    exact (congrArg F.val e).trans (State.setSlots_val x (hne (.inl rfl)))
  | eraseSteps =>
    obtain ⟨x, e, -⟩ := onEraseSteps_rewrites f s
    exact (congrArg F.val e).trans (State.setSlots_val x (hne (.inr rfl)))
  | claimLines =>
    obtain ⟨c, e⟩ := onClaimLines_state f s
    exact (congrArg F.val e).trans (State.setClaims_val c (hne (.inl rfl)))
  | releaseLines =>
    obtain ⟨c, e⟩ := onReleaseLines_state f s
    exact (congrArg F.val e).trans (State.setClaims_val c (hne (.inr (.inl rfl))))
  | setSegments =>
    obtain ⟨xs, e⟩ := onSetSegments_state f s
    exact (congrArg F.val e).trans (State.withLanes_val xs F)
  | setLane =>
    obtain ⟨xs, e⟩ := onSetLane_state f s
    exact (congrArg F.val e).trans (State.withLanes_val xs F)
  | arm => exact (onArm_work f s).val F
  | start => exact (onLaneSet_work f s fun l u => startAct_work u l).val F
  | pause => exact (onLaneSet_work f s fun l u => pauseAct_work u l).val F
  | resume => exact (onLaneSet_work f s fun l u => resumeAct_work u l).val F
  | stop => exact (onLaneSet_work f s fun l u => stopAct_work u l).val F
  | abort => exact (onLaneSet_work f s fun l u => abortAct_work u l).val F
  | setWatch =>
    obtain ⟨ws, e⟩ := onSetWatch_state f s
    exact (congrArg F.val e).trans (State.withWatches_val ws (hne (.inl rfl)))
  | enableWatches =>
    obtain ⟨ws, e⟩ := onEnableWatches_state f s
    exact (congrArg F.val e).trans (State.withWatches_val ws (hne (.inr (.inl rfl))))
  | setRing =>
    obtain ⟨x, e⟩ := onSetRing_state f s
    exact (congrArg F.val e).trans (State.setRing_val (absurd · (hne rfl))
      (absurd · (hne rfl)))
  | trimRing => exact State.setRing_val (fun _ => rfl) (fun _ => rfl)
  | setNoticeMask =>
    obtain ⟨n, e⟩ := onSetNoticeMask_state f s
    exact (congrArg F.val e).trans (State.setNotices_val (absurd · (hne rfl)))
  | poll =>
    obtain ⟨n, e, hn⟩ := onPoll_state f s
    exact (congrArg F.val e).trans (State.setNotices_val fun _ => hn)

/-! ### Commands -/

theorem State.beginReset_resetting (s : State) (c : ResetCause) :
    (s.beginReset c).resetting ≠ none := by
  unfold State.beginReset
  split
  iterate 2 exact nofun
  all_goals rename_i h; rw [h]; exact nofun

/-- The transmitter lets go of the line without a reset (R154, R155). -/
theorem State.releaseLine_val (ht : s.releaseLine.resetting = none) (F : Field) :
    F.val s.releaseLine = F.val s := by
  unfold State.releaseLine at ht ⊢
  split at ht
  · rfl
  · dsimp only at ht ⊢
    split at ht
    · exact absurd ht (State.beginReset_resetting _ _)
    · rename_i hr
      rw [if_neg hr]
      exact State.setLink_val ⟨rfl, rfl, rfl, rfl⟩ (fun _ => rfl) (fun _ => rfl)

theorem State.discardAssembly_val (s : State) (F : Field) :
    F.val (s.setLink s.link.discardAssembly) = F.val s :=
  s.discardAssembly_work.val fun _ => rfl

/-- A guard expiry is lane work once the guard is EXPIRED (R168). -/
theorem State.expireGuard_work (s : State) : LaneWork (s.setGuard .expired) s.expireGuard :=
  ((LaneWork.foldl _ (fun u l => u.abortLane_work l .abortedGuard) laneIds _).trans
    (State.takeRecord_work _ _)).trans (State.raise_work _ _ _)

/-- What an event outside a reset answers. -/
theorem eq_of_next_outsideReset {f : State → State} (hs : s.resetting = none)
    (h : (.next (s.outsideReset f) : Host.Outcome State Fault Refusal) = .next t) : t = f s := by
  rw [State.outsideReset_none s f hs] at h
  cases h; rfl

/-- A command outside a reset that begins none writes no field but those of its own. -/
theorem exec_val {c : Instr} (h : exec c s = .next t) (hs : s.resetting = none)
    (ht : t.resetting = none) (hF : ¬ F.WrittenBy c) : F.val t = F.val s := by
  cases c using Instr.byRequest with
  | request r =>
    rw [exec_command] at h
    cases h
    refine (decoderStep_decoded r r.handler s).val ?_ ?_ fun f u => r.handler_val hF f u
    · rintro rfl; exact hF ⟨r, rfl⟩
    · rintro rfl; exact hF (.inl ⟨r, rfl⟩)
  | badKind =>
    obtain ⟨k, rfl, hk, hg⟩ := execBadKind_link h
    refine State.setLink_val hk (fun _ => hg) ?_
    rintro rfl; exact absurd (.inr rfl) hF
  | byteReceived b m =>
    rw [eq_of_next_outsideReset hs h]
    refine (s.receiveByte_work b m).val ?_
    rintro rfl; exact absurd (.inr (.inr (.inl ⟨b, m, rfl⟩))) hF
  | frameReceived b m =>
    rw [eq_of_next_outsideReset hs h]
    split
    · refine (s.receiveByte_work b m).val ?_
      rintro rfl; exact absurd (.inr (.inr (.inr ⟨b, m, rfl⟩))) hF
    · rfl
  | framingError m =>
    rw [eq_of_next_outsideReset hs h]
    split
    · exact s.discardAssembly_val F
    · rfl
  | gapTimeout =>
    rw [eq_of_next_outsideReset hs h]
    split
    · exact s.discardAssembly_val F
    · rfl
  | replyDelayExpiry =>
    rw [eq_of_next_outsideReset hs h]
    split
    · split
      · refine Eq.trans ?_ (s.discardAssembly_val F)
        cases F <;> rfl
      · rfl
    · rfl
  | replyEnd =>
    rw [eq_of_next_outsideReset hs h] at ht ⊢
    split at ht
    · rename_i hover; rw [if_pos hover]; exact s.releaseLine_val ht F
    · rename_i hover; rw [if_neg hover]
  | collision i b =>
    rw [eq_of_next_outsideReset hs h] at ht ⊢
    split at ht
    · rename_i hback
      rw [if_pos hback]
      exact (State.releaseLine_val ht F).trans
        (State.setLink_val ⟨rfl, rfl, rfl, rfl⟩ (fun _ => rfl) (fun _ => rfl))
    · rename_i hback; rw [if_neg hback]
  | changeEvent o rs => rw [eq_of_next_outsideReset hs h]; exact State.takeSample_val o rs hF
  | openingComparison l =>
    rw [eq_of_next_outsideReset hs h]
    split
    · split
      · exact ((s.setLane_work _ _).trans (State.compareAt_work _ _ _ _)).val F
      · rfl
    · rfl
  | holdExpiry l =>
    rw [eq_of_next_outsideReset hs h]
    split
    · split
      · exact (s.holdExpires_work _ _).val F
      · rfl
    · rfl
  | awaitTimeout l =>
    rw [eq_of_next_outsideReset hs h]
    split
    · split
      · exact (s.limitExpires_work _ _).val F
      · rfl
    · rfl
  | timeTrigger l =>
    rw [eq_of_next_outsideReset hs h]
    split
    · exact (s.startLane_work _ _).val F
    · rfl
  | holdoffExpiry w =>
    rw [eq_of_next_outsideReset hs h]
    split
    · refine State.withWatches_val _ ?_
      rintro rfl; exact hF (.inr (.inr (.inr (.inr (.inr ⟨w, rfl⟩)))))
    · rfl
  | guardExpiry =>
    rw [eq_of_next_outsideReset hs h]
    split
    · refine (s.expireGuard_work.val F).trans (State.setGuard_val .expired ?_)
      rintro rfl; exact hF (.inr (.inl rfl))
    · rfl
  | powerReset => cases h; exact absurd ht (s.beginReset_resetting _)
  | resetPin => cases h; exact absurd ht (s.beginReset_resetting _)
  | fullResetEnd a d o =>
    have e : t = s := by
      have : exec (.fullResetEnd a d o) s = .next s := by
        show execFullResetEnd a d o s = _
        unfold execFullResetEnd; rw [hs]
      rw [this] at h; cases h; rfl
    rw [e]

end

/-! ### What changes at which commands alone -/

/-- Settles O50, field by field: the statement's commands are those of `Field.WrittenBy`. -/
theorem stateChangesOnlyAtItsCommands : Obligations.StateChangesOnlyAtItsCommands := by
  intro c s t h hs ht
  have hval (F : Field) (hF : ¬ F.WrittenBy c) : F.val t = F.val s := exec_val h hs ht hF
  refine ⟨hval .pending nofun, hval .now nofun, hval .timestamp, hval .guardPeriod,
    fun h1 h2 h3 h4 => hval .guard ?_, fun h1 => ?_, fun h1 h2 => hval .slots ?_,
    fun h1 h2 h3 => hval .claims ?_, hval .address nofun, hval .rate nofun, hval .groups,
    hval .replyDelay, fun h1 => hval .groupStore ?_, fun h1 h2 => hval .unicastStore ?_,
    fun h1 h2 h3 h4 h5 h6 => hval .watches ?_, fun h1 => ⟨hval .policy h1, hval .threshold h1⟩,
    hval .mask⟩
  · rintro (h | h | ⟨b, m, h⟩ | ⟨b, m, h⟩)
    exacts [h1 h, h2 h, h3 b m h, h4 b m h]
  · have hc : ¬ ∃ o rs, c = .changeEvent o rs := fun ⟨o, rs, h⟩ => h1 o rs h
    exact ⟨hval .sampled hc, hval .outside hc, hval .sampleAt hc⟩
  · exact not_or.2 ⟨h1, h2⟩
  · rintro (h | h | h)
    exacts [h1 h, h2 h, h3 h]
  · exact fun ⟨r, h⟩ => h1 r h
  · rintro (⟨r, h⟩ | h)
    exacts [h1 r h, h2 h]
  · rintro (h | h | h | h | ⟨o, rs, h⟩ | ⟨w, h⟩)
    exacts [h1 h, h2 h, h3 h, h4 h, h5 o rs h, h6 w h]

/-- A command that rewrites the store leaves the slots of locked pages alone (R6, R10, R12). -/
theorem State.Decoded.slot_of_locked {s t : State} {g : Handler} {n : Nat} (h : s.Decoded g t)
    (hg : ∀ f u, ∃ x, (g f u).1 = u.setSlots x ∧ u.Rewrites x) (hn : 0 < s.refCount (n / 16)) :
    t.slot n = s.slot n := by
  obtain ⟨u, k, rfl | ⟨f, rest, rfl⟩, rfl, -⟩ := h
  · rfl
  · obtain ⟨x, e, hx⟩ := hg f (s.popInbound rest)
    rw [State.setLink_slot, e]
    exact hx.locked n hn

/-- Settles O51: the two requests that rewrite slots leave locked pages alone, and no other command writes a
slot. -/
theorem lockedPagesDoNotChange : Obligations.LockedPagesDoNotChange := by
  intro c s t h hs ht n hn
  by_cases hstore : c = .storeSteps
  · subst hstore; cases h
    exact (decoderStep_decoded _ _ s).slot_of_locked onStoreSteps_rewrites hn
  · by_cases herase : c = .eraseSteps
    · subst herase; cases h
      exact (decoderStep_decoded _ _ s).slot_of_locked onEraseSteps_rewrites hn
    · obtain ⟨-, -, -, -, -, -, hslots, -⟩ := stateChangesOnlyAtItsCommands c s t h hs ht
      simp [State.slot, hslots hstore herase]

end Sys2Proof.Machine

/-!
SUPPORT. Step records and segment entries and their bytes: little-endian fields there and back, the control byte
and the flags byte, and the two round trips (R180). Then the values after a full reset.
-/

namespace Sys2Proof.Machine

/-! ### Little-endian fields (R1, R175) -/

@[simp] theorem leBytes_length (k n : Nat) : (leBytes k n).length = k := by
  induction k generalizing n with
  | zero => rfl
  | succ k ih => simp [leBytes, ih]

theorem leNat_leBytes (k n : Nat) : leNat (leBytes k n) = n % 256 ^ k := by
  induction k generalizing n with
  | zero => simp [leBytes, leNat, Nat.mod_one]
  | succ k ih =>
    have hmod : n % 256 ^ (k + 1) = n % 256 + 256 * (n / 256 % 256 ^ k) := by
      rw [Nat.pow_succ', Nat.mod_mul]
    rw [leBytes, leNat, ih, BitVec.toNat_ofNat, hmod]

theorem leBytes_leNat (bs : List Byte) : leBytes bs.length (leNat bs) = bs := by
  induction bs with
  | nil => rfl
  | cons b bs ih =>
    have hb := b.isLt
    rw [List.length_cons, leBytes, leNat, show (b.toNat + 256 * leNat bs) / 256 = leNat bs by omega, ih]
    congr 1
    apply BitVec.eq_of_toNat_eq
    rw [BitVec.toNat_ofNat]; omega

theorem leNat_lt (bs : List Byte) : leNat bs < 256 ^ bs.length := by
  induction bs with
  | nil => simp [leNat]
  | cons b bs ih =>
    have hb := b.isLt
    rw [leNat, List.length_cons, Nat.pow_succ']; omega

/-- A field of a layout holds what was written there. -/
theorem fieldAt_append (p q r : List Byte) (off n : Nat) (hp : p.length = off) (hq : q.length = n) :
    fieldAt (p ++ (q ++ r)) off n = leNat q := by
  subst hp hq; simp [fieldAt]

/-- The bytes of a layout at a field. -/
theorem leBytes_fieldAt (p : List Byte) (off n : Nat) (h : off + n ≤ p.length) :
    leBytes n (fieldAt p off n) = (p.drop off).take n := by
  have hl : ((p.drop off).take n).length = n := by simp; omega
  have := leBytes_leNat ((p.drop off).take n)
  rwa [hl] at this

theorem fieldAt_lt (p : List Byte) (off n : Nat) : fieldAt p off n < 256 ^ n := by
  refine Nat.lt_of_lt_of_le (leNat_lt _) (Nat.pow_le_pow_right (by decide) ?_)
  exact List.length_take_le _ _

theorem linesBytes_linesAt (p : List Byte) (off : Nat) (h : off + 5 ≤ p.length) :
    linesBytes (linesAt p off) = (p.drop off).take 5 := by
  rw [linesBytes, linesAt, BitVec.toNat_ofNat, 
    Nat.mod_eq_of_lt (show fieldAt p off 5 < 2 ^ 40 from fieldAt_lt p off 5), leBytes_fieldAt p off 5 h]

/-! ### Step records (FIGURE 5) -/

theorem StepKind.ofCode_code (k : StepKind) : StepKind.ofCode k.code = some k := by cases k <;> rfl

theorem Check.ofCode_code (c : Check) : Check.ofCode c.code = some c := by cases c <;> rfl

theorem Mismatch.ofCode_code (m : Mismatch) : Mismatch.ofCode m.code = some m := by cases m <;> rfl

theorem StepKind.code_of_ofCode {n : Nat} {k : StepKind} (h : StepKind.ofCode n = some k) :
    k.code = n := by
  grind [StepKind.ofCode, StepKind.code]

theorem Check.code_of_ofCode {n : Nat} {c : Check} (h : Check.ofCode n = some c) : c.code = n := by
  grind [Check.ofCode, Check.code]

theorem Mismatch.code_of_ofCode {n : Nat} {m : Mismatch} (h : Mismatch.ofCode n = some m) :
    m.code = n := by
  grind [Mismatch.ofCode, Mismatch.code]

theorem StepKind.code_lt (k : StepKind) : k.code < 4 := by cases k <;> decide

theorem Check.code_lt (c : Check) : c.code < 4 := by cases c <;> decide

theorem Mismatch.code_lt (m : Mismatch) : m.code < 3 := by cases m <;> decide

/-- The number in the control byte. -/
theorem StepRecord.control_toNat (st : StepRecord) :
    st.control.toNat = st.kind.code + 4 * st.check.code + 32 * st.onMismatch.code := by
  have h1 := st.kind.code_lt
  have h2 := st.check.code_lt
  have h3 := st.onMismatch.code_lt
  rw [StepRecord.control, byteOf, BitVec.toNat_ofNat]
  omega

theorem linesAt_append (p r : List Byte) (v : Lines) (off : Nat) (hp : p.length = off) :
    linesAt (p ++ (linesBytes v ++ r)) off = v := by
  have hv := v.isLt
  rw [linesAt, fieldAt_append p (linesBytes v) r off 5 hp (leBytes_length _ _), linesBytes, leNat_leBytes,
    Nat.mod_eq_of_lt (by omega)]
  simp

@[simp] theorem linesBytes_length (v : Lines) : (linesBytes v).length = 5 := leBytes_length _ _

theorem stepBytes_length (st : Option StepRecord) : (stepBytes st).length = 18 := by
  cases st <;> simp [stepBytes]

/-- Every field stands where FIGURE 5 puts it. -/
theorem stepBytes_fields (st : StepRecord) :
    byteAt (stepBytes (some st)) 0 = st.control
      ∧ fieldAt (stepBytes (some st)) 1 2 = st.time.toNat
      ∧ linesAt (stepBytes (some st)) 3 = st.driveValue
      ∧ linesAt (stepBytes (some st)) 8 = st.expectValue
      ∧ linesAt (stepBytes (some st)) 13 = st.expectMask := by
  have htime := st.time.isLt
  have h1 := fieldAt_append [st.control] (leBytes 2 st.time.toNat) (linesBytes st.driveValue
    ++ linesBytes st.expectValue ++ linesBytes st.expectMask) 1 2 rfl (leBytes_length _ _)
  have h3 := linesAt_append (st.control :: leBytes 2 st.time.toNat) (linesBytes st.expectValue
    ++ linesBytes st.expectMask) st.driveValue 3 (by simp)
  have h8 := linesAt_append (st.control :: (leBytes 2 st.time.toNat ++ linesBytes st.driveValue))
    (linesBytes st.expectMask) st.expectValue 8 (by simp)
  have h13 := linesAt_append (st.control :: (leBytes 2 st.time.toNat ++ linesBytes st.driveValue
    ++ linesBytes st.expectValue)) [] st.expectMask 13 (by simp)
  rw [leNat_leBytes, Nat.mod_eq_of_lt (by omega)] at h1
  simp only [List.cons_append, List.append_assoc, List.nil_append, List.append_nil] at h1 h3 h8 h13
  simp only [stepBytes, List.append_assoc]
  exact ⟨rfl, h1, h3, h8, h13⟩

theorem parseStep_stepBytes (st : StepRecord) (h : st.valid = true) :
    parseStep (stepBytes (some st)) = some st := by
  obtain ⟨h0, h1, h3, h8, h13⟩ := stepBytes_fields st
  have hk := st.kind.code_lt
  have hc := st.check.code_lt
  have hm := st.onMismatch.code_lt
  have hcode := st.control_toNat
  unfold parseStep
  simp only [h0, h1, h3, h8, h13, BitVec.ofNat_toNat, BitVec.setWidth_eq]
  rw [if_neg (by omega), show st.control.toNat % 4 = st.kind.code by omega,
    show st.control.toNat / 4 % 8 = st.check.code by omega,
    show st.control.toNat / 32 % 4 = st.onMismatch.code by omega,
    StepKind.ofCode_code, Check.ofCode_code, Mismatch.ofCode_code]
  exact if_pos h

/-- Any 18 bytes that are read as a step are that step's bytes (R180). -/
theorem stepBytes_parseStep {r : List Byte} {st : StepRecord} (hl : r.length = 18)
    (h : parseStep r = some st) : r = stepBytes (some st) := by
  unfold parseStep at h
  dsimp only at h
  split at h
  · cases h
  · rename_i hc
    split at h
    · rename_i k ch m hk hch hm
      split at h
      · cases h
        have hk := StepKind.code_of_ofCode hk
        have hch := Check.code_of_ofCode hch
        have hm := Mismatch.code_of_ofCode hm
        have hcontrol : byteOf (k.code + 4 * ch.code + 32 * m.code) = byteAt r 0 := by
          apply BitVec.eq_of_toNat_eq
          rw [byteOf, BitVec.toNat_ofNat]
          omega
        have htime : fieldAt r 1 2 < 2 ^ 16 := fieldAt_lt r 1 2
        simp only [stepBytes, StepRecord.control, hcontrol, BitVec.toNat_ofNat,
          Nat.mod_eq_of_lt htime]
        rw [leBytes_fieldAt r 1 2 (by omega), linesBytes_linesAt r 3 (by omega),
          linesBytes_linesAt r 8 (by omega), linesBytes_linesAt r 13 (by omega)]
        match r, hl with
        | [b0, b1, b2, b3, b4, b5, b6, b7, b8, b9, b10, b11, b12, b13, b14, b15, b16, b17], _ => rfl
      · cases h
    · cases h

/-! ### Segment entries (FIGURE 6) -/

theorem entryBytes_length (e : SegmentEntry) : (entryBytes e).length = 7 := by simp [entryBytes]

theorem cueOf_cueByte (c : Option LaneId) : cueOf (cueByte c) = some c := by
  cases c with
  | none => rfl
  | some l => fin_cases l <;> rfl

theorem cueByte_of_cueOf {b : Byte} {c : Option LaneId} (h : cueOf b = some c) : cueByte c = b := by
  unfold cueOf at h
  split at h
  · rename_i hb; cases h; exact hb.symm
  · cases hl : laneOf b with
    | none => rw [hl] at h; cases h
    | some l =>
      rw [hl] at h; cases h
      have := (laneOf_eq_some b l).1 hl
      apply BitVec.eq_of_toNat_eq
      rw [cueByte, byteOf, BitVec.toNat_ofNat]; omega

/-- The number in the flags byte. -/
theorem SegmentEntry.flags_toNat (e : SegmentEntry) :
    e.flags.toNat = e.isEnd.toNat + 2 * e.mark.toNat + 4 * e.halt.toNat := by
  unfold SegmentEntry.flags
  cases e.isEnd <;> cases e.mark <;> cases e.halt <;> rfl

/-- A bit of a number as a flag. -/
theorem toNat_bit (n : Nat) : (n % 2 == 1).toNat = n % 2 := by
  rcases Nat.mod_two_eq_zero_or_one n with h | h <;> simp [h]

theorem beq_bit (n : Nat) (b : Bool) (h : n % 2 = b.toNat) : (n % 2 == 1) = b := by
  rw [h]; cases b <;> rfl

/-- Every field stands where FIGURE 6 puts it. -/
theorem entryBytes_fields (e : SegmentEntry) :
    fieldAt (entryBytes e) 0 2 = e.first % 65536 ∧ fieldAt (entryBytes e) 2 2 = e.count % 65536
      ∧ (byteAt (entryBytes e) 4).toNat = e.passes % 256 ∧ byteAt (entryBytes e) 5 = e.flags
      ∧ byteAt (entryBytes e) 6 = cueByte e.cue := by
  have h0 := fieldAt_append [] (leBytes 2 e.first) (leBytes 2 e.count
    ++ [byteOf e.passes, e.flags, cueByte e.cue]) 0 2 rfl (leBytes_length _ _)
  have h2 := fieldAt_append (leBytes 2 e.first) (leBytes 2 e.count)
    [byteOf e.passes, e.flags, cueByte e.cue] 2 2 (leBytes_length _ _) (leBytes_length _ _)
  rw [leNat_leBytes] at h0 h2
  simp only [entryBytes, List.append_assoc]
  exact ⟨h0, h2, BitVec.toNat_ofNat .., rfl, rfl⟩

theorem parseEntry_entryBytes (e : SegmentEntry) (h : e.fieldsOk = true) :
    parseEntry (entryBytes e) = some e := by
  obtain ⟨h0, h2, h4, h5, h6⟩ := entryBytes_fields e
  have hok := h
  simp only [SegmentEntry.fieldsOk, decide_eq_true_eq] at hok
  have hf := e.flags_toNat
  have hb (b : Bool) : b.toNat < 2 := Bool.toNat_lt b
  have hend := hb e.isEnd
  have hmark := hb e.mark
  have hhalt := hb e.halt
  unfold parseEntry
  simp only [h0, h2, h4, h5, h6, cueOf_cueByte]
  rw [Nat.mod_eq_of_lt (by omega), Nat.mod_eq_of_lt (by omega), Nat.mod_eq_of_lt (by omega),
    beq_bit _ e.isEnd (by omega), beq_bit _ e.mark (by omega), beq_bit _ e.halt (by omega)]
  exact if_pos (by simp only [Bool.and_eq_true, decide_eq_true_eq]; exact ⟨by omega, h⟩)

theorem entryBytes_parseEntry {r : List Byte} {e : SegmentEntry} (hl : r.length = 7)
    (h : parseEntry r = some e) : e.fieldsOk = true ∧ r = entryBytes e := by
  unfold parseEntry at h
  dsimp only at h
  split at h
  · cases h
  · rename_i cue hcue
    split at h
    · rename_i hok
      cases h
      rw [Bool.and_eq_true, decide_eq_true_eq] at hok
      obtain ⟨hlt, hok⟩ := hok
      refine ⟨hok, ?_⟩
      have hpass : byteOf (byteAt r 4).toNat = byteAt r 4 := by simp [byteOf]
      have hflags (e : SegmentEntry)
          (he : e.isEnd.toNat + 2 * e.mark.toNat + 4 * e.halt.toNat = (byteAt r 5).toNat) :
          e.flags = byteAt r 5 := BitVec.eq_of_toNat_eq (by rw [e.flags_toNat, he])
      rw [entryBytes, hflags _ (by simp only [toNat_bit]; omega)]
      simp only [hpass, cueByte_of_cueOf hcue]
      rw [leBytes_fieldAt r 0 2 (by omega), leBytes_fieldAt r 2 2 (by omega)]
      match r, hl with
      | [b0, b1, b2, b3, b4, b5, b6], _ => rfl
    · cases h

/-- Settles O53: each layout is read back field by field, and each reading gives back the bytes it has read. -/
theorem recordsAndEntriesRoundTrip : Obligations.RecordsAndEntriesRoundTrip :=
  ⟨⟨rfl, fun st h => ⟨stepBytes_length _, parseStep_stepBytes st h⟩,
      fun _ _ hl h => ⟨parseStep_valid h, stepBytes_parseStep hl h⟩⟩,
    fun e h => ⟨entryBytes_length e, parseEntry_entryBytes e h⟩,
    fun _ _ hl h => entryBytes_parseEntry hl h⟩

end Sys2Proof.Machine

/-!
SUPPORT. The values after a full reset, and the four requests to the step store with READ_RING: what they read,
and that they act on a whole run or on nothing.
-/

namespace Sys2Proof.Machine

/-! ### The values after a full reset -/

theorem State.claim_of_replicate {s : State} (h : s.claims = Vector.replicate 40 .free) (n : Nat) :
    s.claim n = .free := by
  rw [State.claim, h, Vector.toList_replicate, List.getD_eq_getElem?_getD, List.getElem?_replicate]
  split <;> rfl

theorem State.watch_of_replicate {s : State} (h : s.watches = Vector.replicate 8 Watch.cleared)
    (w : WatchId) : s.watch w = Watch.cleared := by
  simp [State.watch, h, Vector.get_eq_getElem]

/-- The set of no line. -/
theorem lineSet_of_false {p : Nat → Bool} (h : ∀ n, p n = false) : lineSet p = 0 := by
  apply BitVec.eq_of_getLsbD_eq
  intro n _
  rw [lineSet_bit, h]; simp

/-- With every line free no line is driven (R19). -/
theorem State.driven_of_free {s : State} (h : ∀ n, s.claim n = .free) : s.driven = 0 :=
  lineSet_of_false fun n => by rw [h]

/-- With every line free, at which the outside does nothing, every line stands high (R17). -/
theorem State.lineLevels_of_free {s : State} (h : ∀ n, s.claim n = .free) (ho : s.outside.held = 0) :
    s.lineLevels = BitVec.allOnes 40 := by
  rw [State.lineLevels, standingLevels, State.driven_of_free h, ho]
  change 0#40 &&& _ ||| ~~~0#40 &&& (~~~0#40 ||| _) = _
  rw [BitVec.not_zero, BitVec.zero_and, BitVec.allOnes_or, BitVec.allOnes_and, BitVec.zero_or]

/-- Settles O6: the emptied blocks by what they read, and the lines high, since none is driven or held. -/
theorem resetStateHoldsTheResetValues : Obligations.ResetStateHoldsTheResetValues := by
  have hclaim (n : Nat) : State.reset.claim n = .free := State.claim_of_replicate rfl n
  exact ⟨rfl, rfl, rfl, rfl, rfl, fun _ => rfl, State.refCount_of_replicate rfl, hclaim,
    State.driven_of_free hclaim, (State.lineLevels_of_free hclaim rfl).symm,
    State.lane_of_replicate rfl, State.watch_of_replicate rfl, rfl, rfl, rfl, rfl, rfl, rfl, rfl, rfl,
    rfl, rfl, rfl, rfl, rfl, rfl, rfl, rfl⟩

/-! ### Requests that are answered alone -/

section

variable {s : State} {f : Frame} {rest : List Frame} {r : Request}

/-- A unicast request other than RESTART is answered with what its handler gives, whatever state it leaves with
the queue's rest. -/
theorem exec_answered {t : State} {p : List Byte} (he : s.executes r f rest)
    (hg : r.groupAllowed = false) (hr : r ≠ .restart)
    (ht : r.handler f (s.popInbound rest) = (t.popInbound rest, p)) :
    exec r.command s = .next (t.answered f rest false p) := by
  rw [exec_command, decoderStep_answered he hg ht rfl, State.popInbound_answered, decide_eq_false hr]

/-! ### READ_STEPS, PAGE_STATUS and READ_RING -/

theorem exec_readSteps (he : s.executes .readSteps f rest) :
    let first := fieldAt f.payload 0 2
    let n := (byteAt f.payload 2).toNat
    (2047 < first ∨ n = 0 ∨ 12 < n ∨ 2048 < first + n →
      exec .readSteps s = .next (s.answered f rest false [0x03]))
      ∧ (first ≤ 2047 → 1 ≤ n → n ≤ 12 → first + n ≤ 2048 →
        exec .readSteps s = .next (s.answered f rest false
          ([0x00] ++ leBytes 2 first ++ [byteOf n]
            ++ (List.range' first n).flatMap fun k => stepBytes (s.slot k)))) := by
  intro first n
  refine ⟨fun h => exec_answered he rfl (by decide) ?_,
    fun h1 h2 h3 h4 => exec_answered he rfl (by decide) ?_⟩
  · exact if_pos h
  · exact (if_neg (by omega)).trans (by simp [okFields, Status.code, first, n])

/-- Where no count is above 4 the PAGE_STATUS byte holds the count itself (R14, R177). -/
theorem State.pageByte_eq (hc : ∀ p, s.refCount p ≤ 4) (p : Nat) :
    s.pageByte p = byteOf (s.refCount p + if s.filled p then 128 else 0) := by
  have := hc p
  rw [State.pageByte, Nat.mod_eq_of_lt (by omega)]

theorem exec_pageStatus (he : s.executes .pageStatus f rest) (hc : ∀ p, s.refCount p ≤ 4) :
    let first := (byteAt f.payload 0).toNat
    let n := (byteAt f.payload 1).toNat
    (127 < first ∨ n = 0 ∨ 128 < n ∨ 128 < first + n →
      exec .pageStatus s = .next (s.answered f rest false [0x03]))
      ∧ (first ≤ 127 → 1 ≤ n → n ≤ 128 → first + n ≤ 128 →
        exec .pageStatus s = .next (s.answered f rest false
          ([0x00, byteOf first, byteOf n] ++ (List.range' first n).map fun p =>
            byteOf (s.refCount p + if s.filled p then 128 else 0)))) := by
  intro first n
  refine ⟨fun h => exec_answered he rfl (by decide) ?_,
    fun h1 h2 h3 h4 => exec_answered he rfl (by decide) ?_⟩
  · exact if_pos h
  · rw [← funext (State.pageByte_eq hc)]
    exact if_neg (by omega)

/-- A read from the records after those that a start passes over (R124). -/
theorem Ring.readFrom_append {ring : Ring} {passed chosen : List CaptureRecord} {after : Option Serial}
    (hr : ring.records = passed ++ chosen)
    (h : after = none ∧ passed = [] ∨ ∃ a, after = some a
      ∧ (∀ x ∈ passed, atOrBefore x.serial a = true)
      ∧ ∀ x, chosen.head? = some x → atOrBefore x.serial a = false) :
    ring.readFrom after = chosen := by
  rcases h with ⟨rfl, rfl⟩ | ⟨a, rfl, hp, hc⟩
  · exact hr
  · rw [Ring.readFrom, hr, List.dropWhile_append_of_pos hp]
    cases chosen with
    | nil => rfl
    | cons x xs => exact List.dropWhile_cons_of_neg (by simp [hc x rfl])

theorem readStart_eq_none {mode : Byte} {a : Serial} (h : 1 < mode.toNat) : readStart mode a = none := by
  have h0 : mode ≠ 0 := by rintro rfl; simp at h
  have h1 : mode ≠ 1 := by rintro rfl; simp at h
  rw [readStart, if_neg h0, if_neg h1]

theorem exec_readRing (he : s.executes .readRing f rest) :
    let mode := byteAt f.payload 0
    let serial := wordAt f.payload 1
    let n := (byteAt f.payload 5).toNat
    (1 < mode.toNat ∨ n = 0 ∨ 9 < n →
      exec .readRing s = .next (s.answered f rest false [0x03]))
      ∧ ∀ passed chosen, s.ring.records = passed ++ chosen → 1 ≤ n → n ≤ 9 →
          (mode = 0 ∧ passed = []
            ∨ mode = 1 ∧ (∀ r ∈ passed, atOrBefore r.serial serial = true)
              ∧ (∀ r, chosen.head? = some r → atOrBefore r.serial serial = false)) →
          exec .readRing s = .next (s.answered f rest false
            ([0x00] ++ leBytes 2 s.ring.records.length ++ [byteOf (min n chosen.length)]
              ++ [flagByte (decide (n < chosen.length))]
              ++ (chosen.take n).flatMap recordBytes)) := by
  intro mode serial n
  refine ⟨fun h => exec_answered he rfl (by decide) ?_,
    fun passed chosen hr h1 h9 h => exec_answered he rfl (by decide) ?_⟩
  · show onReadRing f _ = _
    unfold onReadRing
    rcases h with h | h
    · dsimp only; rw [readStart_eq_none h]; rfl
    · dsimp only
      split
      · rfl
      · exact if_pos h
  · have hstart : ∃ after, readStart mode serial = some after
        ∧ (s.popInbound rest).ring.readFrom after = chosen := by
      rcases h with ⟨hm, rfl⟩ | ⟨hm, hp, hc⟩
      · exact ⟨none, by rw [hm]; rfl, Ring.readFrom_append hr (.inl ⟨rfl, rfl⟩)⟩
      · exact ⟨some serial, by rw [hm]; rfl, Ring.readFrom_append hr (.inr ⟨serial, rfl, hp, hc⟩)⟩
    obtain ⟨after, hs, hf⟩ := hstart
    show onReadRing f _ = _
    unfold onReadRing
    dsimp only
    rw [show readStart (byteAt f.payload 0) (wordAt f.payload 1) = some after from hs]
    dsimp only
    rw [if_neg (by omega), hf]
    simp [okFields, Status.code, n]

end

/-- Settles O19: one answer for each of the three requests, the filled flag by `State.filled_iff`. -/
theorem storeAndRingReadsAnswer : Obligations.StoreAndRingReadsAnswer := by
  refine ⟨fun s f rest => ⟨exec_readSteps, fun he hc => ?_⟩, fun _ _ _ => exec_readRing⟩
  obtain ⟨hbad, hok⟩ := exec_pageStatus he hc
  exact ⟨hbad, fun h1 h2 h3 h4 => ⟨s.filled, s.filled_iff, hok h1 h2 h3 h4⟩⟩

end Sys2Proof.Machine

/-!
SUPPORT. STORE_STEPS and ERASE_STEPS: the records of a payload, the checks in their order, and the run that is
written or erased as a whole (R10 to R12).
-/

namespace Sys2Proof.Machine

/-! ### The records of a payload (R10) -/

/-- The record at an index of a STORE_STEPS payload. -/
def recordAt (p : List Byte) (i : Nat) : Option StepRecord := parseStep ((p.drop (2 + 18 * i)).take 18)

@[simp] theorem recordsOf_length (p : List Byte) : (recordsOf p).length = (p.length - 2) / 18 := by
  simp [recordsOf]

@[simp] theorem getElem_recordsOf (p : List Byte) (i : Nat) (h : i < (recordsOf p).length) :
    (recordsOf p)[i] = recordAt p i := by
  simp [recordsOf, recordAt]

/-- The first invalid record. -/
theorem findIdx_recordsOf_eq_some {p : List Byte} {i : Nat} (hi : i < (p.length - 2) / 18)
    (h : recordAt p i = none) (hj : ∀ j, j < i → recordAt p j ≠ none) :
    (recordsOf p).findIdx? Option.isNone = some i := by
  rw [List.findIdx?_eq_some_iff_getElem]
  refine ⟨by simpa using hi, by simp [h], fun j hlt => ?_⟩
  have := hj j hlt
  simpa using this

/-- No record is invalid. -/
theorem findIdx_recordsOf_eq_none {p : List Byte}
    (h : ∀ i, i < (p.length - 2) / 18 → recordAt p i ≠ none) :
    (recordsOf p).findIdx? Option.isNone = none := by
  rw [List.findIdx?_eq_none_iff]
  intro x hx
  obtain ⟨i, hi, rfl⟩ := List.mem_iff_getElem.1 hx
  have := h i (by simpa using hi)
  simpa using Option.ne_none_iff_isSome.1 this

/-- A list of values that are all there holds them in their order. -/
theorem getElem?_filterMap_id {α : Type} (l : List (Option α)) (h : ∀ x ∈ l, x ≠ none) :
    (l.filterMap id).length = l.length ∧ ∀ i : Nat, (l.filterMap id)[i]? = l[i]?.join := by
  induction l with
  | nil => simp
  | cons x xs ih =>
    obtain ⟨hx, hxs⟩ := List.forall_mem_cons.1 h
    obtain ⟨hlen, hget⟩ := ih hxs
    obtain ⟨v, rfl⟩ := Option.ne_none_iff_exists'.1 hx
    refine ⟨by simpa using hlen, fun i => ?_⟩
    cases i with
    | zero => rfl
    | succ i => simpa using hget i

/-- Where no record is invalid, the records written are those of the payload. -/
theorem records_of_valid {p : List Byte} (h : ∀ i, i < (p.length - 2) / 18 → recordAt p i ≠ none) :
    ((recordsOf p).filterMap id).length = (p.length - 2) / 18
      ∧ ∀ i, i < (p.length - 2) / 18 → ((recordsOf p).filterMap id)[i]? = recordAt p i := by
  have hall : ∀ x ∈ recordsOf p, x ≠ none := fun x hx => by
    obtain ⟨i, hi, rfl⟩ := List.mem_iff_getElem.1 hx
    rw [getElem_recordsOf]; exact h i (by simpa using hi)
  obtain ⟨hlen, hget⟩ := getElem?_filterMap_id _ hall
  refine ⟨hlen.trans (recordsOf_length p), fun i hi => ?_⟩
  rw [hget, List.getElem?_eq_getElem (by simpa using hi), getElem_recordsOf]
  rfl

/-! ### The handlers, case by case -/

section

variable {s : State} {f : Frame}
  (hin : ¬ (2047 < fieldAt f.payload 0 2 ∨ 2048 < fieldAt f.payload 0 2 + (f.payload.length - 2) / 18))

include hin

/-- STORE_STEPS with an invalid record (R10, check 2). -/
theorem onStoreSteps_invalid {i : Nat} (hi : i < (f.payload.length - 2) / 18) (h : recordAt f.payload i = none)
    (hj : ∀ j, j < i → recordAt f.payload j ≠ none) :
    onStoreSteps f s = (s, detail2 .badField i) := by
  simp only [onStoreSteps, recordsOf_length, if_neg hin, findIdx_recordsOf_eq_some hi h hj]

/-- STORE_STEPS with valid records alone, at a locked page (R10, check 3). -/
theorem onStoreSteps_locked {p : Nat}
    (h : ∀ i, i < (f.payload.length - 2) / 18 → recordAt f.payload i ≠ none)
    (hp : s.lockedPage (fieldAt f.payload 0 2) ((f.payload.length - 2) / 18) = some p) :
    onStoreSteps f s = (s, detail2 .pageInUse p) := by
  simp only [onStoreSteps, recordsOf_length, if_neg hin, findIdx_recordsOf_eq_none h, hp]

/-- STORE_STEPS past its three checks (R11). -/
theorem onStoreSteps_stored
    (h : ∀ i, i < (f.payload.length - 2) / 18 → recordAt f.payload i ≠ none)
    (hp : s.lockedPage (fieldAt f.payload 0 2) ((f.payload.length - 2) / 18) = none) :
    onStoreSteps f s =
      (s.setSlots (Sparse.putRun s.slots (fieldAt f.payload 0 2) ((recordsOf f.payload).filterMap id)),
        detail2 .ok ((f.payload.length - 2) / 18)) := by
  simp only [onStoreSteps, recordsOf_length, if_neg hin, findIdx_recordsOf_eq_none h, hp]

end

/-- What the slots hold after a run of valid records has been written (R11). -/
theorem State.slot_of_stored (s : State) {p : List Byte} (first k : Nat)
    (h : ∀ i, i < (p.length - 2) / 18 → recordAt p i ≠ none) :
    (s.setSlots (Sparse.putRun s.slots first ((recordsOf p).filterMap id))).slot k =
      if first ≤ k ∧ k < first + (p.length - 2) / 18 then recordAt p (k - first) else s.slot k := by
  obtain ⟨hlen, hget⟩ := records_of_valid h
  rw [State.slot, State.setSlots_slots, Sparse.get_putRun, hlen]
  split
  · exact hget _ (by omega)
  · rfl

section

variable {s : State} {f : Frame}
  (hin : ¬ (2047 < fieldAt f.payload 0 2 ∨ fieldAt f.payload 2 2 = 0
    ∨ 2048 < fieldAt f.payload 0 2 + fieldAt f.payload 2 2))

include hin

theorem onEraseSteps_locked {p : Nat}
    (hp : s.lockedPage (fieldAt f.payload 0 2) (fieldAt f.payload 2 2) = some p) :
    onEraseSteps f s = (s, detail2 .pageInUse p) := by
  simp only [onEraseSteps, if_neg hin, hp]

theorem onEraseSteps_erased
    (hp : s.lockedPage (fieldAt f.payload 0 2) (fieldAt f.payload 2 2) = none) :
    onEraseSteps f s =
      (s.setSlots (Sparse.eraseRun s.slots (fieldAt f.payload 0 2) (fieldAt f.payload 2 2)),
        detail2 .ok (fieldAt f.payload 2 2)) := by
  simp only [onEraseSteps, if_neg hin, hp]

end

/-- Settles O25: each check of each request by the equation of its handler, with the locked page judged by
`State.lockedPage_eq_some` and `State.lockedPage_eq_none`. -/
theorem storeAndEraseAreAllOrNothing : Obligations.StoreAndEraseAreAllOrNothing := by
  refine ⟨fun s f rest he => ?_, fun s f rest he => ?_⟩
  · intro first n record inside page
    have answer {t : State} {p : List Byte}
        (ht : onStoreSteps f (s.popInbound rest) = (t.popInbound rest, p)) :
        exec .storeSteps s = .next (t.answered f rest false p) := exec_answered he rfl (by decide) ht
    have hin (h : inside) : ¬ (2047 < fieldAt f.payload 0 2
        ∨ 2048 < fieldAt f.payload 0 2 + (f.payload.length - 2) / 18) := by
      obtain ⟨h1, h2⟩ := h; omega
    have hend (h : inside) : first + n ≤ 2048 := h.2
    refine ⟨fun h => answer ?_, fun h i hi hnone hj => answer ?_, fun h hall =>
      ⟨fun p hp hc hq => answer ?_, fun hfree => ⟨_, answer ?_, rfl, fun k => s.slot_of_stored first k hall⟩⟩⟩
    · simp only [onStoreSteps, recordsOf_length]
      exact if_pos (by by_contra hc; exact h ⟨by omega, by omega⟩)
    · exact onStoreSteps_invalid (hin h) hi hnone hj
    · exact onStoreSteps_locked (hin h) hall ((State.lockedPage_eq_some _ _ _ p (hend h)).2 ⟨hp, hc, hq⟩)
    · exact onStoreSteps_stored (hin h) hall ((State.lockedPage_eq_none _ _ _ (hend h)).2 hfree)
  · intro first n inside page
    have answer {t : State} {p : List Byte}
        (ht : onEraseSteps f (s.popInbound rest) = (t.popInbound rest, p)) :
        exec .eraseSteps s = .next (t.answered f rest false p) := exec_answered he rfl (by decide) ht
    have hin (h : inside) : ¬ (2047 < fieldAt f.payload 0 2 ∨ fieldAt f.payload 2 2 = 0
        ∨ 2048 < fieldAt f.payload 0 2 + fieldAt f.payload 2 2) := by
      obtain ⟨h1, h2, h3⟩ := h; omega
    have hend (h : inside) : first + n ≤ 2048 := h.2.2
    refine ⟨fun h => answer ?_, fun h p hp hc hq => answer ?_, fun h hfree =>
      ⟨s.setSlots (Sparse.eraseRun s.slots first n), answer ?_, rfl,
        fun k => Sparse.get_eraseRun s.slots first n k⟩⟩
    · exact if_pos (by by_contra hc; exact h ⟨by omega, by omega, by omega⟩)
    · exact onEraseSteps_locked (hin h)
        ((State.lockedPage_eq_some _ _ _ p (hend h)).2 ⟨hp, hc, hq⟩)
    · exact onEraseSteps_erased (hin h) ((State.lockedPage_eq_none _ _ _ (hend h)).2 hfree)

end Sys2Proof.Machine

/-!
SUPPORT. A change event and its receivers, one after another (R22, R23), and the comparison of one lane: opening, or
at a change event that no other receiver acts on (R52 to R62).
-/

namespace Sys2Proof.Machine

/-! ### A change event and its receivers (R22, R23) -/

/-- Settles O60: the states that the delivery goes through, receiver by receiver. -/
theorem changeEventReachesReceiversInOrder : Obligations.ChangeEventReachesReceiversInOrder := by
  intro s o v order h all
  have hperm : (deliveryOrder order).Perm all := deliveryOrder_perm order
  obtain ⟨u, hfirst, hlast, hnext⟩ :=
    foldl_chain (fun t r => State.receiverTakes t s.sampled v r) (deliveryOrder order) (s.withSample o v)
  rw [hperm.length_eq] at hlast
  refine ⟨deliveryOrder order, u, hperm, deliveryOrder_of_perm order, hfirst, fun i r hr => ?_, ?_⟩
  · rw [hnext i r hr]
    exact State.receiverTakes_receives _ _ _ _
  · rw [exec_changeEvent order h, ← hlast]
    rfl

section

variable {s : State} {o : Outside} {v : Lines} (order : List Receiver) (h : s.changesTo o v)
  (hwatch : ∀ w, (s.watch w).state ≠ .enabled)

include h hwatch

/-- A change event that no receiver acts on (R23, R62). -/
theorem exec_changeEvent_quiet (hlane : ∀ l, (s.lane l).checking = false) :
    exec (.changeEvent o order) s = .next (s.withSample o v) :=
  (exec_changeEvent order h).trans <| congrArg Host.Outcome.next <|
    State.deliverSample_quiet { s with outside := o, sampleAt := s.now } v order hwatch hlane

/-- A change event that one lane alone may act on (R23, R62). -/
theorem exec_changeEvent_lane (l : LaneId) (hother : ∀ k, k ≠ l → (s.lane k).checking = false) :
    exec (.changeEvent o order) s = .next ((s.withSample o v).laneTakesChange v l) :=
  (exec_changeEvent order h).trans <| congrArg Host.Outcome.next <|
    State.deliverSample_lane { s with outside := o, sampleAt := s.now } v order l hwatch hother

end

/-! ### Comparisons (R52, R53, R62) -/

/-- The opening comparison of a lane whose step checks from its opening on (R53). -/
theorem State.openingDue_of_settled {s : State} {l : LaneId} {st : StepRecord} {e : Moment}
    (hrun : (s.lane l).state = .running) (hst : (s.lane l).current = some st) (hopens : st.check.opens = true)
    (hat : s.sampleAt = s.now) (hopened : (s.lane l).opened = false)
    (hend : (s.lane l).settleEnd = some e) (he : e < s.now)
    (htimer : ∀ due, (s.lane l).timer = some due → s.now ≤ due) : s.openingDue l = true := by
  have hopen : (s.lane l).timerOpen s.now = true := by
    unfold Lane.timerOpen
    split
    · rfl
    · rename_i due hdue
      exact decide_eq_true (htimer due hdue)
  simp only [State.openingDue, Lane.openingDue, hrun, hst, hend, hopens, hat, hopened, he, hopen, decide_true,
    Bool.not_false, Bool.and_true]

/-- A lane that checks in a step takes a change event by comparing its sample (R62). -/
theorem State.laneTakesChange_checking {s : State} {l : LaneId} {st : StepRecord} (v : Lines)
    (hrun : (s.lane l).state = .running) (hcheck : (s.lane l).checking = true)
    (hst : (s.lane l).current = some st) : s.laneTakesChange v l = s.compareAt l st v := by
  simp [State.laneTakesChange, hrun, hcheck, hst]

/-- A command at which one lane compares is that comparison, from a state in which the lane still runs. -/
theorem State.compares.exec_eq {s s' : State} {c : Instr} {l : LaneId} {st : StepRecord} {v : Lines}
    (h : s.compares c l st v s') :
    (s'.lane l).state = .running ∧ exec c s = .next (s'.compareAt l st v) := by
  obtain ⟨hreset, hrun, hst, hkind, hcmd⟩ := h
  have hopens : st.check.opens = true := by rcases hkind with hk | hk <;> rw [hk] <;> rfl
  rcases hcmd with ⟨rfl, rfl, hat, hopened, ⟨e, hend, he⟩, htimer, rfl⟩
    | ⟨o, order, rfl, hchange, hcheck, hwatch, hother, rfl⟩
  · refine ⟨by rw [State.lane_setLane_self]; exact hrun, ?_⟩
    have hdue := State.openingDue_of_settled hrun hst hopens hat hopened hend he htimer
    refine congrArg Host.Outcome.next ((s.outsideReset_none _ hreset).trans ?_)
    simp only [hst, hdue, if_true]
  · refine ⟨hrun, (exec_changeEvent_lane order hchange hwatch l hother).trans ?_⟩
    exact congrArg Host.Outcome.next (State.laneTakesChange_checking (s := s.withSample o v) v hrun hcheck hst)

/-- Settles O46: a comparison by `State.compareAt_spec`, the sampler by its three cases. -/
theorem samplesAndComparisons : Obligations.SamplesAndComparisons := by
  refine ⟨fun s s' c l st v h => ?_, fun s o order hreset => ?_⟩
  · obtain ⟨hrun, hexec⟩ := h.exec_eq
    obtain ⟨hstands, -, hwaits, hends⟩ := s'.compareAt_spec l st v hrun
    rw [hexec]
    exact ⟨fun hc hv => congrArg _ (hstands hc hv), fun hc hv => congrArg _ (hwaits hc hv),
      fun hc hv => ⟨_, rfl, hends hc hv⟩⟩
  · have hexec : exec (.changeEvent o order) s = .next (State.takeSample { s with outside := o } order) :=
      congrArg Host.Outcome.next (s.outsideReset_none _ hreset)
    exact ⟨fun hat => hexec.trans (congrArg _ (State.takeSample_taken { s with outside := o } order hat)),
      fun hat hv => hexec.trans (congrArg _ (State.takeSample_same { s with outside := o } order hat hv)),
      fun v hv hwatch hlane => exec_changeEvent_quiet order hv hwatch hlane⟩

end Sys2Proof.Machine

/-!
SUPPORT. The line unit (02_lines_and_claims.md): each line set and each level by its bit of a line, the requests that
read without a payload, and CLAIM_LINES and RELEASE_LINES.
-/

namespace Sys2Proof.Machine

/-! ### Lines by the claim map (R17 to R20, R24, R28) -/

section

variable (s : State) {n : Nat} (hn : n < 40) (l : LaneId)

include hn

theorem State.driveSet_bit : (s.driveSet l).getLsbD n = true ↔ ∃ rest, s.claim n = .drive l rest := by
  simp only [State.driveSet, lineSet_bit, hn]
  cases s.claim n <;> simp

theorem State.senseSet_bit : (s.senseSet l).getLsbD n = true ↔ s.claim n = .sense l := by
  simp only [State.senseSet, lineSet_bit, hn]
  cases s.claim n <;> simp

theorem State.restValue_bit : (s.restValue l).getLsbD n = true ↔ s.claim n = .drive l true := by
  simp only [State.restValue, lineSet_bit, hn]
  cases s.claim n <;> simp

theorem State.ownedBy_bit : (s.ownedBy l).getLsbD n = decide ((s.claim n).owner = some l) := by
  simp only [State.ownedBy, lineSet_bit, hn, beq_eq_decide, decide_true, Bool.true_and]

theorem State.takenByOthers_bit :
    (s.takenByOthers l).getLsbD n = true ↔ ∃ o, o ≠ l ∧ (s.claim n).owner = some o := by
  simp only [State.takenByOthers, lineSet_bit, hn]
  cases (s.claim n).owner <;> simp

/-- A line whose claim has not direction DRIVE is not driven (R19). -/
theorem State.undriven_bit (h : ∀ o rest, s.claim n ≠ .drive o rest) : s.driven.getLsbD n = false := by
  rw [Bool.eq_false_iff]
  intro hd
  obtain ⟨o, rest, hc⟩ := (s.driven_bit n hn).1 hd
  exact h o rest hc

/-- The level of a driven line by the state of its lane (R20). -/
theorem State.drivenLevels_bit {o : LaneId} {rest : Bool} (hc : s.claim n = .drive o rest) :
    s.drivenLevels.getLsbD n =
      if (s.lane o).state = .idle ∨ (s.lane o).state = .armed then rest
      else (s.lane o).driveValue.getLsbD n := by
  simp only [State.drivenLevels, lineSet_bit, hn, hc, decide_true, Bool.true_and]
  cases (s.lane o).state <;> rfl

/-- The level a line stands at (R17, R24). -/
theorem State.lineLevels_bit :
    s.lineLevels.getLsbD n =
      if s.outside.held.getLsbD n then s.outside.levels.getLsbD n
      else if s.driven.getLsbD n then s.drivenLevels.getLsbD n
      else true := by
  simp only [State.lineLevels, standingLevels, BitVec.getLsbD_or, BitVec.getLsbD_and, BitVec.getLsbD_not, hn,
    decide_true, Bool.true_and]
  cases s.outside.held.getLsbD n <;> cases s.driven.getLsbD n <;> simp

end

/-- Settles O18: each line set and each level by its bit of the line. -/
theorem linesFollowTheClaimMap : Obligations.LinesFollowTheClaimMap := by
  intro s n hn
  exact ⟨fun hfree => s.undriven_bit hn (by simp [hfree]), fun o hsense => s.undriven_bit hn (by simp [hsense]),
    fun o rest hdrive => ⟨(s.driven_bit n hn).2 ⟨o, rest, hdrive⟩, s.drivenLevels_bit hn hdrive⟩,
    fun l => ⟨s.driveSet_bit hn l, s.senseSet_bit hn l, s.restValue_bit hn l⟩, s.lineLevels_bit hn⟩

/-! ### Requests without a payload (R28, R111, R156, R163) -/

/-- The bytes of a watch in a WATCH_STATUS reply, with its holdoff running or stopped (R111, R177). -/
theorem watchFields_eq (x : Watch) :
    watchFields x = [x.state.code] ++ leBytes 2 x.hits
      ++ match x.holdoffEnd with
        | some e => [0x01] ++ wordBytes e
        | none => [0x00, 0x00, 0x00, 0x00, 0x00] := by
  unfold watchFields
  cases x.holdoffEnd with
  | none => rfl
  | some e => simp [flagByte]

/-- Settles O17: the state that each handler leaves and its fields. -/
theorem readsWithoutPayloadAnswer : Obligations.ReadsWithoutPayloadAnswer := by
  intro s f rest
  refine ⟨fun he => exec_answered he rfl (by decide) ?_, fun he => exec_answered he rfl (by decide) ?_,
    fun he => exec_answered he rfl (by decide) ?_, fun he => exec_answered he rfl (by decide) ?_⟩
  · rfl
  · rfl
  · rfl
  · show onWatchStatus f _ = _
    simp only [onWatchStatus, watchFields_eq]
    rfl

/-! ### CLAIM_LINES and RELEASE_LINES (R25 to R27) -/

/-- The least line that satisfies a condition is the lowest of its set. -/
theorem lowestLine_of_least {v : Lines} {p : Nat → Prop} (hp : ∀ n, p n ↔ n < 40 ∧ v.getLsbD n = true)
    {n : Nat} (hn : p n) (hm : ∀ m, m < n → ¬ p m) : lowestLine v = some n := by
  obtain ⟨hlt, hbit⟩ := (hp n).1 hn
  refine lowestLine_eq_some.2 ⟨hlt, hbit, fun m h => Bool.eq_false_iff.2 fun hb => hm m h ?_⟩
  exact (hp m).2 ⟨h.trans hlt, hb⟩

/-- The set of a condition that no line satisfies has no lowest line. -/
theorem lowestLine_of_none {v : Lines} {p : Nat → Prop} (hp : ∀ n, p n ↔ n < 40 ∧ v.getLsbD n = true)
    (h : ∀ n, ¬ p n) : lowestLine v = none :=
  lowestLine_eq_none.2 fun n hn => Bool.eq_false_iff.2 fun hb => h n ((hp n).2 ⟨hn, hb⟩)

section

variable {s : State} {f : Frame} {l : LaneId}

theorem onClaimLines_noLane (h : 3 < (byteAt f.payload 0).toNat) :
    onClaimLines f s = (s, detail1 .badField 0xFF) := by
  simp only [onClaimLines, (laneOf_eq_none _).2 h]

theorem onReleaseLines_noLane (h : 3 < (byteAt f.payload 0).toNat) :
    onReleaseLines f s = (s, detail1 .badField 0xFF) := by
  simp only [onReleaseLines, (laneOf_eq_none _).2 h]

variable (hl : (byteAt f.payload 0).toNat = l.val)

include hl

theorem onClaimLines_busy (h : (s.lane l).state ≠ .idle) :
    onClaimLines f s = (s, detail1 .wrongState 0xFF) := by
  simp only [onClaimLines, (laneOf_eq_some _ _).2 hl]
  exact if_pos h

theorem onReleaseLines_busy (h : (s.lane l).state ≠ .idle) :
    onReleaseLines f s = (s, detail1 .wrongState 0xFF) := by
  simp only [onReleaseLines, (laneOf_eq_some _ _).2 hl]
  exact if_pos h

/-- RELEASE_LINES at an IDLE lane (R27). -/
theorem onReleaseLines_released (hidle : (s.lane l).state = .idle) :
    onReleaseLines f s = (s.claimFor l 0 0 0, detail1 .ok (lineCount (s.ownedBy l))) := by
  simp only [onReleaseLines, (laneOf_eq_some _ _).2 hl]
  exact if_neg (not_not.2 hidle)

variable (hidle : (s.lane l).state = .idle)

include hidle

/-- CLAIM_LINES at an IDLE lane with a line in both sets (R25, check 3). -/
theorem onClaimLines_overlap {n : Nat}
    (h : lowestLine (linesAt f.payload 1 &&& linesAt f.payload 6) = some n) :
    onClaimLines f s = (s, detail1 .badField n) := by
  simp only [onClaimLines, (laneOf_eq_some _ _).2 hl, h]
  exact if_neg (not_not.2 hidle)

/-- CLAIM_LINES at an IDLE lane with disjoint sets and a line of another lane (R25, check 4). -/
theorem onClaimLines_taken {n : Nat}
    (hboth : lowestLine (linesAt f.payload 1 &&& linesAt f.payload 6) = none)
    (h : lowestLine ((linesAt f.payload 1 ||| linesAt f.payload 6) &&& s.takenByOthers l) = some n) :
    onClaimLines f s = (s, detail1 .lineTaken n) := by
  simp only [onClaimLines, (laneOf_eq_some _ _).2 hl, hboth, h]
  exact if_neg (not_not.2 hidle)

/-- CLAIM_LINES past its four checks (R26). -/
theorem onClaimLines_claimed
    (hboth : lowestLine (linesAt f.payload 1 &&& linesAt f.payload 6) = none)
    (htaken : lowestLine ((linesAt f.payload 1 ||| linesAt f.payload 6) &&& s.takenByOthers l) = none) :
    onClaimLines f s =
      (s.claimFor l (linesAt f.payload 1) (linesAt f.payload 6) (linesAt f.payload 11),
        detail1 .ok (lineCount (linesAt f.payload 1 ||| linesAt f.payload 6))) := by
  simp only [onClaimLines, (laneOf_eq_some _ _).2 hl, hboth, htaken]
  exact if_neg (not_not.2 hidle)

end

section

variable (s : State) (l : LaneId) (drive sense level : Lines) {n : Nat} (hn : n < 40)

include hn

/-- A line of the new drive set is driven to its rest level by the IDLE lane that claims it (R20, R26). -/
theorem State.claimFor_drives (hidle : (s.lane l).state = .idle) (hd : drive.getLsbD n = true) :
    (s.claimFor l drive sense level).driven.getLsbD n = true
      ∧ (s.claimFor l drive sense level).drivenLevels.getLsbD n = level.getLsbD n := by
  have hc : (s.claimFor l drive sense level).claim n = .drive l (level.getLsbD n) := by
    rw [s.claim_claimFor l drive sense level n hn, if_pos hd]
  exact ⟨(State.driven_bit _ n hn).2 ⟨_, _, hc⟩, State.drivenLevels_idle _ n hn l _ hc hidle⟩

/-- A line of the lane's old claim is driven no more unless it stands in the new drive set (R26, R27). -/
theorem State.claimFor_undrives (hd : drive.getLsbD n = false) (ho : (s.claim n).owner = some l) :
    (s.claimFor l drive sense level).driven.getLsbD n = false := by
  refine State.undriven_bit _ hn fun o rest hc => ?_
  rw [s.claim_claimFor l drive sense level n hn, hd, if_neg Bool.false_ne_true, if_pos ho] at hc
  split at hc <;> cases hc

/-- The claim of a line after its release (R27). -/
theorem State.claim_released :
    (s.claimFor l 0 0 0).claim n = if (s.claim n).owner = some l then .free else s.claim n := by
  have hzero : (0 : Lines).getLsbD n = false := BitVec.getLsbD_zero
  simp only [s.claim_claimFor l 0 0 0 n hn, hzero, Bool.false_eq_true, if_false]

end

theorem lineCount_or (u v : Lines) :
    lineCount (u ||| v) = (List.range 40).countP fun n => u.getLsbD n || v.getLsbD n := by
  simp only [lineCount, BitVec.getLsbD_or]

theorem State.lineCount_ownedBy (s : State) (l : LaneId) :
    lineCount (s.ownedBy l) = (List.range 40).countP fun n => decide ((s.claim n).owner = some l) :=
  List.countP_congr fun n hn => by rw [s.ownedBy_bit (List.mem_range.1 hn)]

/-- Settles O26: each outcome of the two requests by the equation of its handler, the claims after it by
`State.claim_claimFor`. -/
theorem claimAndReleaseReplaceTheClaim : Obligations.ClaimAndReleaseReplaceTheClaim := by
  refine ⟨fun s f rest he => ?_, fun s f rest he => ?_⟩
  · intro drive sense level both
    have answer {t : State} {p : List Byte}
        (ht : onClaimLines f (s.popInbound rest) = (t.popInbound rest, p)) :
        exec .claimLines s = .next (t.answered f rest false p) := exec_answered he rfl (by decide) ht
    refine ⟨fun h => answer (onClaimLines_noLane h), fun l hl => ?_⟩
    intro taken
    have hboth : ∀ n, both n ↔ n < 40 ∧ (drive &&& sense).getLsbD n = true := fun n => by
      rw [BitVec.getLsbD_and, Bool.and_eq_true]
    have htaken : ∀ n, taken n ↔ n < 40 ∧ ((drive ||| sense) &&& s.takenByOthers l).getLsbD n = true := fun n =>
      and_congr_right fun hn => by
        rw [BitVec.getLsbD_and, BitVec.getLsbD_or, Bool.and_eq_true, Bool.or_eq_true, s.takenByOthers_bit hn]
    refine ⟨fun hbusy => answer (onClaimLines_busy hl hbusy), fun hidle n hn hm => answer ?_,
      fun hidle hnone n hn hm => answer ?_, fun hidle hnone hfree => ?_⟩
    · exact onClaimLines_overlap (s := s.popInbound rest) hl hidle (lowestLine_of_least hboth hn hm)
    · exact onClaimLines_taken (s := s.popInbound rest) hl hidle (lowestLine_of_none hboth hnone)
        (lowestLine_of_least htaken hn hm)
    · refine ⟨s.claimFor l drive sense level, answer ?_, rfl, fun n hn => ⟨?_, fun hd => ?_, fun hd ho => ?_⟩⟩
      · rw [← lineCount_or]
        exact onClaimLines_claimed hl hidle (lowestLine_of_none hboth hnone) (lowestLine_of_none htaken hfree)
      · exact s.claim_claimFor l drive sense level n hn
      · exact s.claimFor_drives l drive sense level hn hidle hd
      · exact s.claimFor_undrives l drive sense level hn hd ho
  · have answer {t : State} {p : List Byte}
        (ht : onReleaseLines f (s.popInbound rest) = (t.popInbound rest, p)) :
        exec .releaseLines s = .next (t.answered f rest false p) := exec_answered he rfl (by decide) ht
    refine ⟨fun h => answer (onReleaseLines_noLane h), fun l hl =>
      ⟨fun hbusy => answer (onReleaseLines_busy hl hbusy), fun hidle =>
        ⟨s.claimFor l 0 0 0, answer ?_, rfl, fun n hn => ⟨s.claim_released l hn, fun ho => ?_⟩⟩⟩⟩
    · rw [← s.lineCount_ownedBy]
      exact onReleaseLines_released hl hidle
    · exact s.claimFor_undrives l 0 0 0 hn BitVec.getLsbD_zero ho

end Sys2Proof.Machine

/-!
SUPPORT. Segment lists and lane options (03_segment_lists_and_arming.md): when a list is valid, the entries and
the options that a payload holds, and SET_SEGMENTS, READ_SEGMENTS, SET_LANE and LANE_STATUS case by case.
-/

namespace Sys2Proof.Machine

/-! ### When an entry fits and a list is valid (R31, R33, R34) -/

theorem SegmentEntry.fieldsOk_iff (e : SegmentEntry) :
    e.fieldsOk = true ↔ e.first ≤ 2047 ∧ 1 ≤ e.count ∧ e.count ≤ 256 ∧ e.first + e.count ≤ 2048
      ∧ 1 ≤ e.passes ∧ e.passes ≤ 255 := decide_eq_true_iff

/-- An entry whose fields are in range fits unless it cues its own lane or has END before the last place. -/
theorem SegmentEntry.fits_iff (e : SegmentEntry) (l : LaneId) (i n : Nat) :
    e.fits l i n = true ↔ e.fieldsOk = true ∧ e.cue ≠ some l ∧ (e.isEnd = true → i + 1 = n) := by
  simp only [SegmentEntry.fits, Bool.and_eq_true, Bool.or_eq_true, Bool.not_eq_true', decide_eq_true_eq,
    and_assoc]
  cases e.isEnd <;> simp

/-- The entry at a place of a list fails the fourth check of R34: its bytes hold no entry, or one that does
not fit. -/
def misfit (l : LaneId) (entries : List (Option SegmentEntry)) (i : Nat) : Prop :=
  ∀ e, entries[i]? = some (some e) → e.fits l i entries.length = false

/-- The first number below `n` that passes a test, where the test decides a condition there. -/
theorem find_range_of_test {n : Nat} {p : Nat → Bool} {q : Nat → Prop} (h : ∀ i, i < n → (p i = true ↔ q i)) :
    (∀ i, (List.range n).find? p = some i ↔ i < n ∧ q i ∧ ∀ j, j < i → ¬ q j)
      ∧ ((List.range n).find? p = none ↔ ∀ i, i < n → ¬ q i) := by
  have hnot (j : Nat) (hj : j < n) : p j = false ↔ ¬ q j := by rw [← h j hj, Bool.not_eq_true]
  refine ⟨fun i => ?_, ?_⟩
  · rw [find_range_eq_some]
    exact and_congr_right fun hi => and_congr (h i hi)
      (forall_congr' fun j => imp_congr_right fun hj => hnot j (hj.trans hi))
  · rw [find_range_eq_none]
    exact forall_congr' fun j => imp_congr_right (hnot j)

/-- The check finds the first entry that does not fit, if there is one. -/
theorem entryFault_iff (l : LaneId) (entries : List (Option SegmentEntry)) :
    (∀ i, entryFault l entries = some i ↔
        i < entries.length ∧ misfit l entries i ∧ ∀ j, j < i → ¬ misfit l entries j)
      ∧ (entryFault l entries = none ↔ ∀ i, i < entries.length → ¬ misfit l entries i) := by
  refine find_range_of_test fun i hi => ?_
  unfold misfit
  rw [List.getD_eq_getElem?_getD, List.getElem?_eq_getElem hi, Option.getD_some]
  cases entries[i] <;> simp

/-- END stands on the last entry. -/
theorem endsWell_iff (list : List SegmentEntry) :
    endsWell list = true ↔ ∃ e, list[list.length - 1]? = some e ∧ e.isEnd = true := by
  unfold endsWell
  rw [List.getLast?_eq_getElem?]
  cases list[list.length - 1]? <;> simp

theorem listValid_iff (l : LaneId) (list : List SegmentEntry) :
    listValid l list = true ↔
      (1 ≤ list.length ∧ list.length ≤ 24)
        ∧ (∀ (i : Nat) (e : SegmentEntry), list[i]? = some e → e.fits l i list.length = true)
        ∧ endsWell list = true := by
  have hfits : entryFault l (list.map some) = none ↔
      ∀ (i : Nat) (e : SegmentEntry), list[i]? = some e → e.fits l i list.length = true := by
    rw [(entryFault_iff _ _).2]
    constructor
    · intro h i e he
      obtain ⟨hi, rfl⟩ := List.getElem?_eq_some_iff.1 he
      simpa [misfit, hi] using h i (by simpa using hi)
    · intro h i hi hm
      have hi : i < list.length := by simpa using hi
      have hgood := h i list[i] (List.getElem?_eq_getElem hi)
      have hbad := hm list[i] (by simp [hi])
      rw [List.length_map, hgood] at hbad
      cases hbad
  simp only [listValid, Bool.and_eq_true, decide_eq_true_eq, Option.isNone_iff_eq_none, hfits, and_assoc]

/-- Settles O27: of the entries that fit, END on the last is what `endsWell` asks. -/
theorem segmentListValidity : Obligations.SegmentListValidity := by
  intro l list
  rw [listValid_iff, endsWell_iff]
  constructor
  · rintro ⟨⟨h1, h24⟩, hfits, last, hlast, hend⟩
    refine ⟨h1, h24, fun i e he => ?_⟩
    obtain ⟨hok, hcue, hendLast⟩ := (e.fits_iff l i _).1 (hfits i e he)
    obtain ⟨hfirst, hc1, hc256, hslots, hp1, hp255⟩ := e.fieldsOk_iff.1 hok
    refine ⟨hfirst, hc1, hc256, hslots, hp1, hp255, hcue, hendLast, fun hi => ?_⟩
    rw [show i = list.length - 1 by omega, hlast] at he
    cases he; exact hend
  · rintro ⟨h1, h24, hall⟩
    have hlast := List.getElem?_eq_getElem (l := list) (i := list.length - 1) (by omega)
    refine ⟨⟨h1, h24⟩, fun i e he => ?_, _, hlast, ?_⟩
    · obtain ⟨hfirst, hc1, hc256, hslots, hp1, hp255, hcue, hend⟩ := hall i e he
      exact (e.fits_iff l i _).2 ⟨e.fieldsOk_iff.2 ⟨hfirst, hc1, hc256, hslots, hp1, hp255⟩, hcue, hend.1⟩
    · obtain ⟨-, -, -, -, -, -, -, hend⟩ := hall _ _ hlast
      exact hend.2 (by omega)

/-! ### The entries of a SET_SEGMENTS payload (R34, R180) -/

/-- The entry at an index of a SET_SEGMENTS payload. -/
def segmentAt (p : List Byte) (i : Nat) : Option SegmentEntry := parseEntry ((p.drop (1 + 7 * i)).take 7)

@[simp] theorem entriesOf_length (p : List Byte) : (entriesOf p).length = (p.length - 1) / 7 := by
  simp [entriesOf]

theorem getElem?_entriesOf (p : List Byte) {i : Nat} (hi : i < (p.length - 1) / 7) :
    (entriesOf p)[i]? = some (segmentAt p i) := by
  simp [entriesOf, segmentAt, hi]

/-- An entry that is read has its fields in range (R34, R179). -/
theorem parseEntry_fieldsOk {r : List Byte} {e : SegmentEntry} (h : parseEntry r = some e) :
    e.fieldsOk = true := by
  unfold parseEntry at h
  dsimp only at h
  split at h
  · cases h
  · split at h
    · rename_i hok
      cases h
      rw [Bool.and_eq_true] at hok
      exact hok.2
    · cases h

/-- What the fourth check of R34 finds in a payload: bytes that are no entry, a cue to the lane itself, or END
before the last entry. -/
theorem misfit_entriesOf (p : List Byte) (l : LaneId) {i : Nat} (hi : i < (p.length - 1) / 7) :
    misfit l (entriesOf p) i ↔
      segmentAt p i = none ∨ ∃ e, segmentAt p i = some e
        ∧ (e.cue = some l ∨ (e.isEnd = true ∧ i + 1 ≠ (p.length - 1) / 7)) := by
  unfold misfit
  rw [getElem?_entriesOf p hi, entriesOf_length]
  cases h : segmentAt p i with
  | none => simp
  | some e =>
    have hok := parseEntry_fieldsOk h
    simp only [Option.some.injEq, forall_eq', ← Bool.not_eq_true, e.fits_iff, hok]
    simp only [true_and, not_and_or, not_not, Classical.not_imp, reduceCtorEq, false_or, exists_eq_left']

/-- Where no entry of a payload is bad, the list they make holds them in their order. -/
theorem segments_of_payload {p : List Byte} (h : ∀ i, i < (p.length - 1) / 7 → segmentAt p i ≠ none) :
    ((entriesOf p).filterMap id).length = (p.length - 1) / 7
      ∧ ∀ i, i < (p.length - 1) / 7 → ((entriesOf p).filterMap id)[i]? = segmentAt p i := by
  have hall : ∀ x ∈ entriesOf p, x ≠ none := fun x hx => by
    obtain ⟨i, hi⟩ := List.mem_iff_getElem?.1 hx
    have hlt : i < (p.length - 1) / 7 := by
      rw [← entriesOf_length]; exact (List.getElem?_eq_some_iff.1 hi).1
    rw [getElem?_entriesOf p hlt] at hi
    cases hi; exact h i hlt
  obtain ⟨hlen, hget⟩ := getElem?_filterMap_id _ hall
  refine ⟨hlen.trans (entriesOf_length p), fun i hi => ?_⟩
  rw [hget, getElem?_entriesOf p hi]
  rfl

/-! ### SET_SEGMENTS, case by case (R34, R35) -/

section

variable {s : State} {f : Frame} {l : LaneId}

theorem onSetSegments_noLane (h : 3 < (byteAt f.payload 0).toNat) :
    onSetSegments f s = (s, detail1 .badField 0xFF) := by
  simp only [onSetSegments, (laneOf_eq_none _).2 h]

variable (hl : (byteAt f.payload 0).toNat = l.val)

include hl

theorem onSetSegments_busy (h : (s.lane l).state ≠ .idle) :
    onSetSegments f s = (s, detail1 .wrongState 0xFF) := by
  simp only [onSetSegments, (laneOf_eq_some _ _).2 hl]
  exact if_pos h

variable (hidle : (s.lane l).state = .idle)

include hidle

theorem onSetSegments_empty (h : (f.payload.length - 1) / 7 = 0) :
    onSetSegments f s = (s, detail1 .listInvalid 0xFF) := by
  simp only [onSetSegments, (laneOf_eq_some _ _).2 hl, entriesOf_length, h, if_true]
  exact if_neg (not_not.2 hidle)

variable (hn : (f.payload.length - 1) / 7 ≠ 0)

include hn

/-- SET_SEGMENTS at an IDLE lane with an entry that does not fit (R34, check 4). -/
theorem onSetSegments_misfit {i : Nat} (h : entryFault l (entriesOf f.payload) = some i) :
    onSetSegments f s = (s, detail1 .listInvalid i) := by
  simp only [onSetSegments, (laneOf_eq_some _ _).2 hl, entriesOf_length, h, if_neg hn]
  exact if_neg (not_not.2 hidle)

variable (hfits : entryFault l (entriesOf f.payload) = none)

include hfits

/-- SET_SEGMENTS at an IDLE lane with entries that fit but no END on the last (R34, check 5). -/
theorem onSetSegments_endless (h : endsWell ((entriesOf f.payload).filterMap id) = false) :
    onSetSegments f s = (s, detail1 .listInvalid ((f.payload.length - 1) / 7 - 1)) := by
  simp only [onSetSegments, (laneOf_eq_some _ _).2 hl, entriesOf_length, hfits, if_neg hn, h,
    Bool.false_eq_true, if_false]
  exact if_neg (not_not.2 hidle)

/-- SET_SEGMENTS past its five checks (R35). -/
theorem onSetSegments_replaced (h : endsWell ((entriesOf f.payload).filterMap id) = true) :
    onSetSegments f s =
      (s.setLane l { s.lane l with segments := (entriesOf f.payload).filterMap id },
        detail1 .ok ((f.payload.length - 1) / 7)) := by
  simp only [onSetSegments, (laneOf_eq_some _ _).2 hl, entriesOf_length, hfits, if_neg hn, h, if_true]
  exact if_neg (not_not.2 hidle)

end

/-- Settles O28: each check by the equation of its handler, the entries by `misfit_entriesOf` and
`segments_of_payload`. -/
theorem setSegmentsReplacesTheList : Obligations.SetSegmentsReplacesTheList := by
  intro s f rest he n entry
  have answer {t : State} {p : List Byte}
      (ht : onSetSegments f (s.popInbound rest) = (t.popInbound rest, p)) :
      exec .setSegments s = .next (t.answered f rest false p) := exec_answered he rfl (by decide) ht
  refine ⟨fun h => answer (onSetSegments_noLane h), fun l hl => ?_⟩
  intro bad
  have hfault := entryFault_iff l (entriesOf f.payload)
  have hbad {i : Nat} (hi : i < n) : misfit l (entriesOf f.payload) i ↔ bad i := misfit_entriesOf _ l hi
  refine ⟨fun h => answer (onSetSegments_busy hl h), fun hidle h => answer (onSetSegments_empty hl hidle h),
    fun hidle i hi hb hj => answer ?_, fun hidle hn hgood => ?_⟩
  · refine onSetSegments_misfit (s := s.popInbound rest) hl hidle (by omega) ((hfault.1 i).2 ?_)
    rw [entriesOf_length]
    exact ⟨hi, (hbad hi).2 hb, fun j hlt hm => hj j hlt ((hbad (hlt.trans hi)).1 hm)⟩
  · have hfits : entryFault l (entriesOf f.payload) = none := by
      rw [hfault.2, entriesOf_length]
      exact fun i hi hm => hgood i hi ((hbad hi).1 hm)
    obtain ⟨hlen, hget⟩ := segments_of_payload fun i hi hnone => hgood i hi (.inl hnone)
    have hlast : ∀ e, entry (n - 1) = some e →
        (endsWell ((entriesOf f.payload).filterMap id) = true ↔ e.isEnd = true) := fun e hlast => by
      rw [endsWell_iff, hlen, hget _ (by omega)]
      change (∃ e', entry (n - 1) = some e' ∧ _) ↔ _
      simp [hlast]
    refine ⟨fun e hsome hend => answer (onSetSegments_endless hl hidle (by omega) hfits ?_),
      fun e hsome hend => ⟨(entriesOf f.payload).filterMap id, hlen, hget,
        answer (onSetSegments_replaced hl hidle (by omega) hfits ((hlast e hsome).2 hend))⟩⟩
    rw [Bool.eq_false_iff, ne_eq, hlast e hsome, hend]
    exact Bool.false_ne_true

/-! ### READ_SEGMENTS and LANE_STATUS (R36, R91) -/

/-- Settles O20: the lane that the request names and the fields of its reply. -/
theorem laneReadsAnswer : Obligations.LaneReadsAnswer := by
  refine fun s f rest => ⟨fun r hr he h => ?_, fun l hl => ?_⟩
  · have hnone := (laneOf_eq_none _).2 h
    rcases List.mem_pair.1 hr with rfl | rfl
    · exact exec_answered he rfl (by decide) (by simp only [Request.handler, onReadSegments, hnone]; rfl)
    · exact exec_answered he rfl (by decide) (by simp only [Request.handler, onLaneStatus, hnone]; rfl)
  · intro x
    have hsome := (laneOf_eq_some _ _).2 hl
    refine ⟨fun he => exec_answered he rfl (by decide) ?_, fun he => ?_⟩
    · simp only [Request.handler, onReadSegments, hsome]
      rfl
    · intro left
      refine exec_answered he rfl (by decide) ?_
      have hleft : left = x.remaining s.now := by
        simp only [left, Lane.remaining]
        cases x.current <;> rfl
      rw [hleft]
      simp only [Request.handler, onLaneStatus, hsome]
      change (_, okFields (statusFields l x s.now)) = _
      unfold statusFields
      cases hsource : x.runSource with
      | none => rfl
      | some source => cases source <;> rfl

/-! ### The options of a SET_LANE payload (R38, R178) -/

theorem TickUnit.ofCode_eq_none (b : Byte) : TickUnit.ofCode b = none ↔ 3 < b.toNat := by
  unfold TickUnit.ofCode
  repeat' split
  all_goals simp only [reduceCtorEq, false_iff, true_iff]; bv_omega

theorem TickUnit.code_of_ofCode {b : Byte} {t : TickUnit} (h : TickUnit.ofCode b = some t) : t.code = b := by
  grind [TickUnit.ofCode, TickUnit.code]

theorem checkpointOf_eq_none (b : Byte) : checkpointOf b = none ↔ ¬ (b.toNat ≤ 23 ∨ b.toNat = 255) := by
  unfold checkpointOf
  repeat' split
  all_goals simp only [reduceCtorEq, false_iff, true_iff]; bv_omega

theorem checkpointOf_eq_some {b : Byte} {c : Option Nat} (h : checkpointOf b = some c) (i : Nat) :
    c = some i ↔ b.toNat = i ∧ i ≤ 23 := by
  unfold checkpointOf at h
  split at h
  · cases h
    simp only [reduceCtorEq, false_iff]; bv_omega
  · split at h
    · cases h
      simp only [Option.some.injEq]; omega
    · cases h

theorem boolOf_eq_none (b : Byte) : boolOf b = none ↔ ¬ b.toNat ≤ 1 := by
  unfold boolOf
  repeat' split
  all_goals simp only [reduceCtorEq, false_iff, true_iff]; bv_omega

theorem boolOf_eq_some {b : Byte} {v : Bool} (h : boolOf b = some v) : v = true ↔ b.toNat = 1 := by
  unfold boolOf at h
  split at h
  · cases h
    simp only [Bool.false_eq_true, false_iff]; bv_omega
  · split at h
    · cases h
      simp only [true_iff]; bv_omega
    · cases h

section

variable {p : List Byte}

theorem parseOptions_badTick (h : TickUnit.ofCode (byteAt p 1) = none) : parseOptions p = .error 1 := by
  simp only [parseOptions, h]

variable {tick : TickUnit} (htick : TickUnit.ofCode (byteAt p 1) = some tick)

include htick

theorem parseOptions_badCheckpoint (h : checkpointOf (byteAt p 3) = none) : parseOptions p = .error 3 := by
  simp only [parseOptions, htick, h]

variable {checkpoint : Option Nat} (hcheckpoint : checkpointOf (byteAt p 3) = some checkpoint)

include hcheckpoint

theorem parseOptions_badLoop (h : boolOf (byteAt p 4) = none) : parseOptions p = .error 4 := by
  simp only [parseOptions, htick, hcheckpoint, h]

variable {loop : Bool} (hloop : boolOf (byteAt p 4) = some loop)

include hloop

theorem parseOptions_badRecord (h : boolOf (byteAt p 5) = none) : parseOptions p = .error 5 := by
  simp only [parseOptions, htick, hcheckpoint, hloop, h]

theorem parseOptions_ok {record : Bool} (h : boolOf (byteAt p 5) = some record) :
    parseOptions p = .ok
      { tick := tick, settle := byteAt p 2, checkpoint := checkpoint, loop := loop, record := record } := by
  simp only [parseOptions, htick, hcheckpoint, hloop, h]

end

/-! ### SET_LANE, case by case (R38) -/

section

variable {s : State} {f : Frame} {l : LaneId}

theorem onSetLane_noLane (h : 3 < (byteAt f.payload 0).toNat) :
    onSetLane f s = (s, detail1 .badField 0) := by
  simp only [onSetLane, (laneOf_eq_none _).2 h]

variable (hl : (byteAt f.payload 0).toNat = l.val)

include hl

theorem onSetLane_busy (h : (s.lane l).state ≠ .idle) :
    onSetLane f s = (s, detail1 .wrongState 0xFF) := by
  simp only [onSetLane, (laneOf_eq_some _ _).2 hl]
  exact if_pos h

variable (hidle : (s.lane l).state = .idle)

include hidle

/-- SET_LANE at an IDLE lane with an option whose code is not assigned (R38, check 3). -/
theorem onSetLane_unassigned {i : Nat} (h : parseOptions f.payload = .error i) :
    onSetLane f s = (s, detail1 .badField i) := by
  simp only [onSetLane, (laneOf_eq_some _ _).2 hl, h]
  exact if_neg (not_not.2 hidle)

/-- SET_LANE past its checks. -/
theorem onSetLane_replaced {o : LaneOptions} (h : parseOptions f.payload = .ok o) :
    onSetLane f s = (s.setLane l { s.lane l with options := o }, detail1 .ok 0xFF) := by
  simp only [onSetLane, (laneOf_eq_some _ _).2 hl, h]
  exact if_neg (not_not.2 hidle)

end

/-- Settles O29: the options are read in payload order, and the first that cannot be read is named. -/
theorem setLaneReplacesTheOptions : Obligations.SetLaneReplacesTheOptions := by
  intro s f rest he b tickOk checkpointOk loopOk recordOk
  have answer {t : State} {p : List Byte}
      (ht : onSetLane f (s.popInbound rest) = (t.popInbound rest, p)) :
      exec .setLane s = .next (t.answered f rest false p) := exec_answered he rfl (by decide) ht
  refine ⟨fun h => answer (onSetLane_noLane h), fun l hl => ⟨fun h => answer (onSetLane_busy hl h),
    fun hidle => ?_⟩⟩
  have refuse {i : Nat} (h : parseOptions f.payload = .error i) :
      exec .setLane s = .next (s.answered f rest false [0x03, byteOf i]) :=
    answer (onSetLane_unassigned (s := s.popInbound rest) hl hidle h)
  have readTick (h : tickOk) : ∃ v, TickUnit.ofCode (byteAt f.payload 1) = some v :=
    Option.ne_none_iff_exists'.1 fun hc => Nat.not_lt.2 h ((TickUnit.ofCode_eq_none _).1 hc)
  have readCheckpoint (h : checkpointOk) : ∃ v, checkpointOf (byteAt f.payload 3) = some v :=
    Option.ne_none_iff_exists'.1 fun hc => (checkpointOf_eq_none _).1 hc h
  have readBool {i : Nat} (h : b i ≤ 1) : ∃ v, boolOf (byteAt f.payload i) = some v :=
    Option.ne_none_iff_exists'.1 fun hc => (boolOf_eq_none _).1 hc h
  refine ⟨fun h1 => ?_, fun h1 h3 => ?_, fun h1 h3 h4 => ?_, fun h1 h3 h4 h5 => ?_, fun h1 h3 h4 h5 => ?_⟩
  · exact refuse (parseOptions_badTick ((TickUnit.ofCode_eq_none _).2 (Nat.not_le.1 h1)))
  all_goals obtain ⟨tick, htick⟩ := readTick h1
  · exact refuse (parseOptions_badCheckpoint htick ((checkpointOf_eq_none _).2 h3))
  all_goals obtain ⟨checkpoint, hcheckpoint⟩ := readCheckpoint h3
  · exact refuse (parseOptions_badLoop htick hcheckpoint ((boolOf_eq_none _).2 h4))
  all_goals obtain ⟨loop, hloop⟩ := readBool h4
  · exact refuse (parseOptions_badRecord htick hcheckpoint hloop ((boolOf_eq_none _).2 h5))
  obtain ⟨record, hrecord⟩ := readBool h5
  refine ⟨{ tick := tick, settle := byteAt f.payload 2, checkpoint := checkpoint, loop := loop, record := record },
    congrArg BitVec.toNat (TickUnit.code_of_ofCode htick), rfl, checkpointOf_eq_some hcheckpoint, boolOf_eq_some hloop,
    boolOf_eq_some hrecord, ?_⟩
  exact answer (onSetLane_replaced (s := s.popInbound rest) hl hidle
    (parseOptions_ok htick hcheckpoint hloop hrecord))

end Sys2Proof.Machine

/-!
SUPPORT. Arming and the four sources of a start (03_segment_lists_and_arming.md): ARM case by case, START lane by
lane, the time trigger, and the cue of a completed entry.
-/

namespace Sys2Proof.Machine

/-! ### Requests that groups may carry -/

section

variable {s : State} {f : Frame} {rest : List Frame} {r : Request}

/-- A request other than RESTART is concluded with what its handler gives, whatever state it leaves with the
queue's rest. -/
theorem exec_concluded {t : State} {p : List Byte} (he : s.executes r f rest) (hr : r ≠ .restart)
    (ht : r.handler f (s.popInbound rest) = (t.popInbound rest, p)) :
    exec r.command s = .next (t.concluded f rest p) := by
  rw [exec_command, decoderStep_executes he hr ht rfl, State.popInbound_concluded]

end

/-! ### ARM, case by case (R40, R41) -/

/-- A segment list reaches a slot that is EMPTY (R40, check 4). -/
def State.reachesEmpty (s : State) (list : List SegmentEntry) (n : Nat) : Prop :=
  (∃ e ∈ list, n ∈ e.slots) ∧ s.slot n = none

theorem State.lowestEmpty_eq_some {s : State} {list : List SegmentEntry} {n : Nat}
    (h : s.reachesEmpty list n) (hm : ∀ m, m < n → ¬ s.reachesEmpty list m) :
    s.lowestEmpty list = some n := by
  have hmem (k : Nat) : k ∈ ((list.flatMap SegmentEntry.slots).filter fun n => (s.slot n).isNone) ↔
      s.reachesEmpty list k := by
    simp [State.reachesEmpty]
  refine List.min?_eq_some_iff.2 ⟨(hmem n).2 h, fun k hk => ?_⟩
  exact Nat.not_lt.1 fun hlt => hm k hlt ((hmem k).1 hk)

theorem State.lowestEmpty_eq_none {s : State} {list : List SegmentEntry}
    (h : ∀ n, ¬ s.reachesEmpty list n) : s.lowestEmpty list = none := by
  refine List.min?_eq_none_iff.2 (List.filter_eq_nil_iff.2 fun n hn hempty => h n ⟨?_, by simpa using hempty⟩)
  simpa using hn

/-- The start time is too late for TIME: it lies not 1 to 2^31 - 1 microseconds ahead (R40, check 6). -/
theorem late_iff (sources : Byte) (start stamp : Stamp) :
    hasTime (sources.setWidth 4) = true ∧ timeAhead start stamp = false ↔
      sources.getLsbD 3 = true ∧ ¬ (1 ≤ (start - stamp).toNat ∧ (start - stamp).toNat ≤ 2147483647) := by
  simp [hasTime, timeAhead]

section

variable {s : State} {f : Frame} {l : LaneId}

theorem onArm_noLane (h : 3 < (byteAt f.payload 0).toNat) :
    onArm f s = (s, detail2 .badField 0xFFFF) := by
  simp only [onArm, (laneOf_eq_none _).2 h]

variable (hl : (byteAt f.payload 0).toNat = l.val)

include hl

theorem onArm_busy (h : (s.lane l).state ≠ .idle) : onArm f s = (s, detail2 .wrongState 0xFFFF) := by
  simp only [onArm, (laneOf_eq_some _ _).2 hl]
  exact if_pos h

variable (hidle : (s.lane l).state = .idle)

include hidle

theorem onArm_invalid (h : listValid l (s.lane l).segments = false) :
    onArm f s = (s, detail2 .listInvalid 0xFFFF) := by
  simp only [onArm, (laneOf_eq_some _ _).2 hl, h, if_true]
  exact if_neg (not_not.2 hidle)

variable (hvalid : listValid l (s.lane l).segments = true)

include hvalid

/-- ARM at an IDLE lane whose valid list reaches an EMPTY slot (R40, check 4). -/
theorem onArm_gap {n : Nat} (h : s.lowestEmpty (s.lane l).segments = some n) :
    onArm f s = (s, detail2 .listInvalid n) := by
  simp only [onArm, (laneOf_eq_some _ _).2 hl, hidle, hvalid, h]
  rfl

variable (hfilled : s.lowestEmpty (s.lane l).segments = none)

include hfilled

/-- ARM at an IDLE lane with a list that can run, with no source or one that is not assigned (R40, check 5). -/
theorem onArm_badSources (h : byteAt f.payload 1 = 0 ∨ 16 ≤ (byteAt f.payload 1).toNat) :
    onArm f s = (s, detail2 .badField 0xFFFF) := by
  simp only [onArm, (laneOf_eq_some _ _).2 hl, hidle, hvalid, hfilled, if_pos h]
  rfl

variable (hsources : ¬ (byteAt f.payload 1 = 0 ∨ 16 ≤ (byteAt f.payload 1).toNat))

include hsources

/-- ARM with TIME and a start time out of range (R40, check 6). -/
theorem onArm_late (h : hasTime ((byteAt f.payload 1).setWidth 4) = true
      ∧ timeAhead (wordAt f.payload 2) s.timestamp = false) :
    onArm f s = (s, detail2 .late 0xFFFF) := by
  simp only [onArm, (laneOf_eq_some _ _).2 hl, hidle, hvalid, hfilled, if_neg hsources, if_pos h]
  rfl

/-- ARM past its six checks (R41). -/
theorem onArm_armed (h : ¬ (hasTime ((byteAt f.payload 1).setWidth 4) = true
      ∧ timeAhead (wordAt f.payload 2) s.timestamp = false)) :
    onArm f s =
      ((s.raiseRefs (s.lane l).segments).setLane l
          ((s.lane l).armedWith ((byteAt f.payload 1).setWidth 4) (wordAt f.payload 2)),
        detail2 .ok (pagesTouched (s.lane l).segments)) := by
  simp only [onArm, (laneOf_eq_some _ _).2 hl, hidle, hvalid, hfilled, if_neg hsources, if_neg h]
  rfl

end

/-- Settles O30: each check by the equation of its handler, the counts by `State.refCount_raiseRefs`. -/
theorem armChecksAndLocks : Obligations.ArmChecksAndLocks := by
  intro s f rest he sources start ahead late
  have conclude {t : State} {p : List Byte}
      (ht : onArm f (s.popInbound rest) = (t.popInbound rest, p)) :
      exec .arm s = .next (t.concluded f rest p) := exec_concluded he (by decide) ht
  refine ⟨fun h => conclude (onArm_noLane h), fun l hl => ?_⟩
  intro x gap
  have hlate := late_iff sources start s.timestamp
  refine ⟨fun h => conclude (onArm_busy hl h), fun hidle h => conclude (onArm_invalid hl hidle h),
    fun hidle hvalid => ⟨fun n hn hm => conclude ?_, fun hnone => ?_⟩⟩
  · exact onArm_gap (s := s.popInbound rest) hl hidle hvalid (State.lowestEmpty_eq_some hn hm)
  · have hfilled : (s.popInbound rest).lowestEmpty x.segments = none :=
      State.lowestEmpty_eq_none (s := s.popInbound rest) hnone
    refine ⟨fun h => conclude ?_, fun h0 h16 h => conclude ?_, fun h0 h16 h => ?_⟩
    · exact onArm_badSources (s := s.popInbound rest) hl hidle hvalid hfilled h
    · exact onArm_late (s := s.popInbound rest) hl hidle hvalid hfilled
        (not_or.2 ⟨h0, Nat.not_le.2 h16⟩) (hlate.2 h)
    · have hexec := onArm_armed (s := s.popInbound rest) hl hidle hvalid hfilled
        (not_or.2 ⟨h0, Nat.not_le.2 h16⟩) (hlate.not.2 h)
      refine ⟨(s.raiseRefs x.segments).setLane l (x.armedWith (sources.setWidth 4) start), conclude hexec, rfl,
        fun k hk => State.lane_setLane_ne _ _ (Ne.symm hk), fun p hp => ?_, ?_⟩
      · rw [State.setLane_refCount, s.refCount_raiseRefs _ p hp]
        split <;> rfl
      · have htime : hasTime (sources.setWidth 4) = sources.getLsbD 3 := by simp [hasTime]
        rw [State.lane_setLane_self, Lane.armedWith, htime]
        rfl

/-! ### A start that reaches a lane (R42) -/

section

variable {s : State} {l : LaneId} {src : StartSource}

theorem State.startLane_taken (ha : (s.lane l).state = .armed) (hsrc : (s.lane l).hasSource src = true) :
    s.startLane l src = s.takeStart l src := if_pos ⟨ha, hsrc⟩

theorem State.startLane_ignored (h : (s.lane l).state ≠ .armed ∨ (s.lane l).hasSource src = false) :
    s.startLane l src = s := by
  refine if_neg ?_
  rintro ⟨ha, hsrc⟩
  exact h.elim (· ha) fun hno => by rw [hno] at hsrc; cases hsrc

end

/-! ### START, lane by lane (R43, R84) -/

/-- A lane-set request with a lane in its set and none above 3 acts on its lanes in lane order (R83). -/
theorem onLaneSet_acted {f : Frame} {act : LaneAct} (outcome : Lane → LaneOutcome)
    (hout : ∀ s l, (act l s).2 = outcome (s.lane l))
    (hother : ∀ s l k, k ≠ l → ((act l s).1).lane k = s.lane k)
    (h0 : byteAt f.payload 0 ≠ 0) (h16 : (byteAt f.payload 0).toNat < 16) (s : State) :
    onLaneSet act f s =
      (laneIds.foldl (fun u l => if (byteAt f.payload 0).getLsbD l.val then (act l u).1 else u) s,
        okFields (byteAt f.payload 0 :: laneIds.map fun l =>
          if (byteAt f.payload 0).getLsbD l.val then (outcome (s.lane l)).code
          else LaneOutcome.notNamed.code)) := by
  have hfold := laneSet_foldl (byteAt f.payload 0) act outcome hout hother laneIds (by decide) s []
  simp only [onLaneSet, hfold, List.nil_append]
  exact if_neg (not_or.2 ⟨h0, Nat.not_le.2 h16⟩)

/-- START at lane `l`, in the set or not, with its outcome (R83, R84): STARTED at an ARMED lane with REQUEST,
REFUSED at another ARMED or an IDLE one, QUEUED at a lane in flight, NOT_NAMED outside the set. -/
def State.takesStart (t s : State) (l : LaneId) (named : Bool) (outcome : Byte) : Prop :=
  let x := s.lane l
  (named = false → t.lane l = x ∧ outcome = 0)
    ∧ ((named && decide (x.state = .armed) && x.sources.getLsbD 0) = true → outcome = 1
      ∧ ∀ st, s.slot x.firstSlot = some st → (t.lane l).startedBy x .request st s.now)
    ∧ (named = true → x.state = .armed → x.sources.getLsbD 0 = false → t.lane l = x ∧ outcome = 2)
    ∧ (named = true → x.state = .idle → t.lane l = x ∧ outcome = 2)
    ∧ (named = true → x.state = .running ∨ x.state = .paused ∨ x.state = .halted →
        t.lane l = { x with restartPending := true, stopRequested := false } ∧ outcome = 3)

/-- The outcome of START at a lane (R84). -/
def Lane.startOutcome (x : Lane) : LaneOutcome :=
  match x.state with
  | .armed => if x.hasSource .request then .started else .refused
  | .idle => .refused
  | .running | .paused | .halted => .queued

section

variable (s : State) (l : LaneId)

/-- All that START can do at a lane. -/
theorem startAct_cases :
    ((s.lane l).state = .armed ∧ (s.lane l).sources.getLsbD 0 = true
        ∧ startAct l s = (s.takeStart l .request, .started))
      ∨ (((s.lane l).state = .idle ∨ ((s.lane l).state = .armed ∧ (s.lane l).sources.getLsbD 0 = false))
        ∧ startAct l s = (s, .refused))
      ∨ (((s.lane l).state = .running ∨ (s.lane l).state = .paused ∨ (s.lane l).state = .halted)
        ∧ startAct l s = (s.setLane l (s.lane l).queueRestart, .queued)) := by
  cases hx : (s.lane l).state with
  | armed =>
    cases hsrc : (s.lane l).hasSource .request with
    | true => exact .inl ⟨rfl, hsrc, by simp only [startAct, hx, hsrc, State.startLane_taken hx hsrc, if_true]⟩
    | false => exact .inr (.inl ⟨.inr ⟨rfl, hsrc⟩, by simp [startAct, hx, hsrc]⟩)
  | idle => exact .inr (.inl ⟨.inl rfl, by simp only [startAct, hx]⟩)
  | running => exact .inr (.inr ⟨.inl rfl, by simp only [startAct, hx]⟩)
  | paused => exact .inr (.inr ⟨.inr (.inl rfl), by simp only [startAct, hx]⟩)
  | halted => exact .inr (.inr ⟨.inr (.inr rfl), by simp only [startAct, hx]⟩)

theorem startAct_outcome : (startAct l s).2 = (s.lane l).startOutcome := by
  unfold startAct Lane.startOutcome
  cases (s.lane l).state with
  | armed => dsimp only; split <;> rfl
  | _ => rfl

theorem startAct_other (k : LaneId) (h : k ≠ l) : (startAct l s).1.lane k = s.lane k := by
  obtain ⟨-, -, e⟩ | ⟨-, e⟩ | ⟨-, e⟩ := startAct_cases s l <;> rw [e]
  · exact (s.takeStart_spec l .request).2.1 k h
  · exact State.lane_setLane_ne _ _ (Ne.symm h)

theorem startAct_refs : (startAct l s).1.refs = s.refs := by
  obtain ⟨-, -, e⟩ | ⟨-, e⟩ | ⟨-, e⟩ := startAct_cases s l <;> rw [e]
  · rw [(s.takeStart_spec l .request).1]
  · rfl

theorem startAct_takesStart :
    (startAct l s).1.takesStart s l true (s.lane l).startOutcome.code := by
  rw [← startAct_outcome]
  obtain ⟨hx, hsrc, e⟩ | ⟨hx, e⟩ | ⟨hx, e⟩ := startAct_cases s l <;> rw [e]
  · have hstart := (s.takeStart_spec l .request).2.2.2
    exact ⟨nofun, fun _ => ⟨rfl, hstart⟩, by simp [hsrc], by simp [hx], by simp [hx]⟩
  · refine ⟨nofun, fun h => ?_, fun _ _ _ => ⟨rfl, rfl⟩, fun _ _ => ⟨rfl, rfl⟩, fun _ h => ?_⟩
    · rcases hx with hx | ⟨hx, hsrc⟩ <;> simp_all
    · rcases hx with hx | ⟨hx, -⟩ <;> simp [hx] at h
  · refine ⟨nofun, fun h => ?_, fun _ h => ?_, fun _ h => ?_,
      fun _ _ => ⟨State.lane_setLane_self _ _ _, rfl⟩⟩
    all_goals rcases hx with hx | hx | hx <;> simp [hx] at h

end

section

variable (set : Byte)

/-- One lane's turn in a START for a lane set (R83). -/
def startTurn (l : LaneId) (s : State) : State := if set.getLsbD l.val then (startAct l s).1 else s

/-- The lanes that a START for a lane set starts (R84). -/
def startsAt (l : LaneId) (x : Lane) : Bool :=
  set.getLsbD l.val && decide (x.state = .armed) && x.sources.getLsbD 0

/-- The outcome byte of a lane (R83, R84). -/
def startByte (l : LaneId) (x : Lane) : Byte :=
  if set.getLsbD l.val then x.startOutcome.code else LaneOutcome.notNamed.code

variable (s : State) (l : LaneId)

theorem startTurn_takesStart :
    (startTurn set l s).takesStart s l (set.getLsbD l.val) (startByte set l (s.lane l)) := by
  unfold startTurn startByte
  cases set.getLsbD l.val with
  | true => exact startAct_takesStart s l
  | false => exact ⟨fun _ => ⟨rfl, rfl⟩, nofun, nofun, nofun, nofun⟩

theorem startTurn_work : LaneWork s (startTurn set l s) := by
  unfold startTurn; split
  · exact startAct_work s l
  · exact .refl s

theorem startTurn_other (k : LaneId) (h : k ≠ l) : (startTurn set l s).lane k = s.lane k := by
  unfold startTurn; split
  · exact startAct_other s l k h
  · rfl

theorem startTurn_refs : (startTurn set l s).refs = s.refs := by
  unfold startTurn; split
  · exact startAct_refs s l
  · rfl

/-- A turn that starts its lane reports the start (R42). -/
theorem startTurn_started (h : startsAt set l (s.lane l) = true) :
    (startTurn set l s).reportsAs (s.startReports l (some .request)) := by
  simp only [startsAt, Bool.and_eq_true, decide_eq_true_eq] at h
  obtain ⟨⟨hset, harmed⟩, hsrc⟩ := h
  have he : startTurn set l s = s.takeStart l .request := by
    rw [← State.startLane_taken (src := .request) harmed hsrc]
    unfold startTurn startAct
    rw [if_pos hset, harmed]
    exact congrArg Prod.fst (if_pos hsrc)
  rw [he]
  exact (s.takeStart_spec l .request).2.2.1

/-- Any other turn reports nothing. -/
theorem startTurn_quiet (h : startsAt set l (s.lane l) = false) : (startTurn set l s).reportsAs s := by
  unfold startTurn; split
  · rename_i hset
    obtain ⟨hx, hsrc, -⟩ | ⟨-, e⟩ | ⟨-, e⟩ := startAct_cases s l
    · rw [startsAt, hset, hx, hsrc] at h; cases h
    · rw [e]; exact ⟨rfl, rfl⟩
    · rw [e]; exact ⟨rfl, rfl⟩
  · exact ⟨rfl, rfl⟩

/-- The turns of all lanes, lane 0 first: what they leave at each lane, and their reports in lane order, told
of a state `r` that stands for `s` in what reports read. -/
theorem startTurns_spec (r : State) (hlanes : r.lanes = s.lanes) (hstamp : r.timestamp = s.timestamp)
    (hsame : s.reportsAs r) :
    let t := laneIds.foldl (fun u l => startTurn set l u) s
    LaneWork s t ∧ t.refs = s.refs
      ∧ t.reportsAs ((laneIds.filter fun l => startsAt set l (s.lane l)).foldl
          (fun r l => r.startReports l (some .request)) r)
      ∧ ∀ l, t.takesStart s l (set.getLsbD l.val) (startByte set l (s.lane l)) := by
  have hfold := lanes_foldl (startTurn set) (startsAt set) (fun r l => r.startReports l (some .request))
    (fun b t l => t.takesStart b l (set.getLsbD l.val) (startByte set l (b.lane l))) s
    (fun u l => startTurn_work set u l) (fun u l k hk => startTurn_other set u l k hk)
    (fun u v l hu hv hvl hul hrep hstarts => ?_) (fun u l hul hquiet => ?_) (fun u l => by simp) (fun u l => ?_)
    (fun u l hul hslot hnow => ?_) (fun t u l htu h => ?_) laneIds (by decide) s r rfl rfl rfl
    hstamp hlanes (fun _ _ => rfl) hsame
  · obtain ⟨hw, hrep, -, hafter⟩ := hfold
    have hrefs (ls : List LaneId) (u : State) : (ls.foldl (fun u l => startTurn set l u) u).refs = u.refs := by
      induction ls generalizing u with
      | nil => rfl
      | cons l ls ih => exact (ih _).trans (startTurn_refs set u l)
    exact ⟨hw, hrefs laneIds s, hrep, fun l => hafter l (by fin_cases l <;> decide)⟩
  · have hstarted := startTurn_started set u l (by rw [hul]; exact hstarts)
    have hreports := State.startReports_congr (l := l) (some .request) hrep (hu.trans hv.symm)
      (by rw [hul, hvl]) (by rw [hul, hvl])
    exact ⟨hstarted.1.trans hreports.1, hstarted.2.trans hreports.2⟩
  · exact startTurn_quiet set u l (by rw [hul]; exact hquiet)
  · rw [u.startReports_frame]
  · have h := startTurn_takesStart set u l
    unfold State.takesStart at h ⊢
    rwa [hul, hslot, hnow] at h
  · unfold State.takesStart at h ⊢
    rwa [← htu]

end

/-- Settles O32: the turns of the four lanes by `startTurns_spec`. -/
theorem startActsByLaneState : Obligations.StartActsByLaneState := by
  intro s f rest he h0 h16 named starts
  obtain ⟨hw, hrefs, hrep, hlane⟩ := startTurns_spec (byteAt f.payload 0) (s.popInbound rest) s rfl rfl ⟨rfl, rfl⟩
  have hacted := onLaneSet_acted Lane.startOutcome startAct_outcome startAct_other h0 h16 (s.popInbound rest)
  change onLaneSet startAct f (s.popInbound rest) =
    (laneIds.foldl (fun u l => startTurn (byteAt f.payload 0) l u) (s.popInbound rest), _) at hacted
  generalize laneIds.foldl (fun u l => startTurn (byteAt f.payload 0) l u) (s.popInbound rest) = u
    at hw hrefs hrep hlane hacted
  have hu : u = State.popInbound { s with lanes := u.lanes, ring := u.ring, notices := u.notices } rest := by
    have hframe := hw.frame
    rwa [hrefs] at hframe
  refine ⟨{ s with lanes := u.lanes, ring := u.ring, notices := u.notices },
    fun l => startByte (byteAt f.payload 0) l (s.lane l), exec_concluded he (by decide) (hacted.trans ?_), rfl,
    hrep, hlane⟩
  rw [← hu]; rfl

/-! ### The cue of a completed entry (R45, R76) -/

section

variable (s : State) {l k : LaneId}

/-- What a start leaves at an ARMED lane that has its source (R42). -/
theorem State.startLane_startedBy {src : StartSource} {st : StepRecord} (ha : (s.lane l).state = .armed)
    (hsrc : (s.lane l).hasSource src = true) (hst : s.slot (s.lane l).firstSlot = some st) :
    ((s.startLane l src).lane l).startedBy (s.lane l) src st s.now := by
  rw [State.startLane_taken ha hsrc]
  exact (s.takeStart_spec l src).2.2.2 st hst

/-- An entry that completes leaves of the other lanes what the delivery of its cue leaves. -/
theorem State.complete_other {j : LaneId} (hj : j ≠ l) :
    (s.complete l).lane j =
      ((s.reportMark l (s.lane l).position.entry).deliverCue l (s.lane l).position.entry).lane j := by
  unfold State.complete
  dsimp only
  split
  · rw [State.haltLane_other _ _ _ hj, State.passCheckpoint_lane]
  · rw [State.afterHalt_other _ hj, State.passCheckpoint_lane]

/-- A start that reaches lane `k` leaves at every lane what it leaves in a state with the same slots and moment
in which these two lanes are alike. -/
theorem State.startLane_lane_of_alike {u : State} {j : LaneId} (src : StartSource) (hk : u.lane k = s.lane k)
    (hj : u.lane j = s.lane j) (hslot : u.slot = s.slot) (hnow : u.now = s.now) :
    (u.startLane k src).lane j = (s.startLane k src).lane j := by
  by_cases h : j = k
  · subst h; exact State.startLane_lane_congr s src hk hslot hnow
  · rw [State.startLane_other _ _ h, State.startLane_other _ _ h, hj]

/-- The last step of an entry with a cue leaves of the other lanes what the start of the cued lane leaves. -/
theorem State.endStep_other_of_cue (hends : (s.lane l).endsEntry)
    (hcue : ((s.lane l).entryAt (s.lane l).position.entry).cue = some k) (hk : k ≠ l) {j : LaneId} (hj : j ≠ l) :
    (s.endStep l).lane j = (s.startLane k (.cue l)).lane j := by
  have hentry := (s.lane l).nextPosition_entry
  have hcomp := (Lane.atCompletion_iff _).2 hends
  unfold State.endStep
  dsimp only
  rw [if_pos hcomp, State.complete_other _ hj]
  generalize hu : s.setLane l { (s.lane l).noStep with position := (s.lane l).nextPosition } = u
  have hul : u.lane l = { (s.lane l).noStep with position := (s.lane l).nextPosition } := by
    rw [← hu]; exact State.lane_setLane_self _ _ _
  have hother {i : LaneId} (hi : i ≠ l) : u.lane i = s.lane i := by
    rw [← hu]; exact State.lane_setLane_ne _ _ (Ne.symm hi)
  have hposition : (u.lane l).position.entry = (s.lane l).position.entry := by rw [hul]; exact hentry
  rw [hposition]
  have hcue' : (((u.reportMark l (s.lane l).position.entry).lane l).entryAt
      (s.lane l).position.entry).cue = some k := by
    rw [State.reportMark_lane, hul]; exact hcue
  unfold State.deliverCue
  rw [hcue']
  have hwork : LaneWork s u := by rw [← hu]; exact s.setLane_work _ _
  have hmark := hwork.trans (u.reportMark_work l (s.lane l).position.entry)
  exact s.startLane_lane_of_alike _ (by rw [State.reportMark_lane, hother hk])
    (by rw [State.reportMark_lane, hother hj]) (funext hmark.slot) hmark.now

/-- HOLD_EXPIRY in a DRIVE step whose timer has run out (R68). -/
theorem State.timerRunsOut.exec_holdExpiry {s : State} {l : LaneId} {st : StepRecord} {due : Moment}
    (h : s.timerRunsOut l st due) (hkind : st.kind = .drive) :
    exec (.holdExpiry l) s = .next (s.holdExpires l st) := by
  obtain ⟨hreset, hrun, hst, htimer, hdue⟩ := h
  have hhold : (s.lane l).holdDue s.now = true := by
    simp only [Lane.holdDue, Lane.timerDue, hrun, hst, htimer, hkind, hdue, decide_true, Bool.and_self]
  refine congrArg Host.Outcome.next ((s.outsideReset_none _ hreset).trans ?_)
  simp only [hst, hhold, if_true]

/-- A hold that expires without a failed AT_END comparison ends its step (R54, R55). -/
theorem State.holdExpires_endStep {s : State} {l : LaneId} {st : StepRecord} {due : Moment}
    (htimer : (s.lane l).timer = some due)
    (h : st.check = .atEnd → st.off s.sampled = 0 ∨ ∀ e, (s.lane l).settleEnd = some e → due ≤ e) :
    s.holdExpires l st = s.endStep l := by
  refine if_neg ?_
  rintro ⟨hcheck, hsettled, hfails⟩
  rcases h hcheck with hoff | hsettling
  · rw [(st.matches_iff _).2 hoff] at hfails; cases hfails
  · unfold Lane.settledAtEnd at hsettled
    rw [htimer] at hsettled
    cases hend : (s.lane l).settleEnd with
    | none => rw [hend] at hsettled; cases hsettled
    | some e =>
      rw [hend] at hsettled
      exact Nat.not_lt.2 (hsettling e hend) (of_decide_eq_true hsettled)

end

/-- Settles O44: the hold's expiry ends the step, and leaves of the other lanes what the cue's start leaves. -/
theorem cueStartsAnArmedLane : Obligations.CueStartsAnArmedLane := by
  intro s l k st due htimer hkind hcheck hends hcue hk
  have hlane {j : LaneId} (hj : j ≠ l) := s.endStep_other_of_cue hends hcue hk hj
  refine ⟨s.endStep l, ?_, fun harmed hsrc first hfirst => ?_, fun hno => ?_, fun j hjl hjk => ?_⟩
  · rw [htimer.exec_holdExpiry hkind, State.holdExpires_endStep htimer.2.2.2.1 hcheck]
  · rw [hlane hk]; exact s.startLane_startedBy harmed hsrc hfirst
  · rw [hlane hk, State.startLane_ignored hno]
  · rw [hlane hjl]; exact s.startLane_other _ hjk

/-! ### The time trigger and the holdoff's end (R46, R93, R107) -/

/-- Settles O48: the start by `State.takeStart_spec`, the holdoff by its own moment. -/
theorem timeTriggerAndHoldoffExpiry : Obligations.TimeTriggerAndHoldoffExpiry := by
  refine fun s hreset => ⟨fun l st harmed htrigger htime hstamp hst => ?_, fun w hend => ?_⟩
  · obtain ⟨hframe, hother, hreports, hstarted⟩ := s.takeStart_spec l .time
    have hdue : (s.lane l).triggerDue s.timestamp = true := by
      simp only [Lane.triggerDue, harmed, htrigger, hstamp, decide_true, Bool.and_self]
    have hexec : exec (.timeTrigger l) s = .next (s.takeStart l .time) :=
      congrArg Host.Outcome.next ((s.outsideReset_none _ hreset).trans
        ((if_pos hdue).trans (State.startLane_taken harmed htime)))
    exact ⟨_, hexec, hframe, hother, hreports, hstarted st hst⟩
  · exact congrArg Host.Outcome.next ((s.outsideReset_none _ hreset).trans (if_pos (decide_eq_true hend)))

end Sys2Proof.Machine

/-!
SUPPORT. What a lane keeps from its arming to its end (R25, R39, R41): no work of the lane engines rewrites a list,
options, sources or a start time (`KeepsPrograms`), and the requests that do, like those that rewrite the claim map,
act at IDLE lanes alone.
-/

namespace Sys2Proof.Machine

/-- Every lane keeps its list, its options, its start sources and its start time. -/
def KeepsPrograms (s t : State) : Prop := ∀ l, (t.lane l).sameProgram (s.lane l)

namespace KeepsPrograms

variable {s t u : State}

theorem of_lanes (h : t.lanes = s.lanes) : KeepsPrograms s t := fun l => by
  simp [Lane.sameProgram, State.lane, h]

theorem refl (s : State) : KeepsPrograms s s := of_lanes rfl

theorem trans (h : KeepsPrograms s t) (g : KeepsPrograms t u) : KeepsPrograms s u := fun l => by
  obtain ⟨h1, h2, h3, h4⟩ := h l
  obtain ⟨g1, g2, g3, g4⟩ := g l
  exact ⟨g1.trans h1, g2.trans h2, g3.trans h3, g4.trans h4⟩

/-- One lane changes, and keeps its own. -/
theorem of_others {l : LaneId} (ho : t.keepsOtherLanes s l) (h : (t.lane l).sameProgram (s.lane l)) :
    KeepsPrograms s t := fun k => by
  by_cases hk : k = l
  · subst hk; exact h
  · rw [ho k hk]; exact ⟨rfl, rfl, rfl, rfl⟩

theorem setLane {l : LaneId} {x : Lane} (h : x.sameProgram (s.lane l)) : KeepsPrograms s (s.setLane l x) :=
  of_others (fun _ hk => State.lane_setLane_ne _ _ (Ne.symm hk)) (by rwa [State.lane_setLane_self])

/-- A fold of acts that keep the programs. -/
theorem foldl {α : Type} {f : State → α → State} (hf : ∀ s a, KeepsPrograms s (f s a)) (xs : List α)
    (s : State) : KeepsPrograms s (xs.foldl f s) := by
  induction xs generalizing s with
  | nil => exact refl s
  | cons a as ih => exact (hf s a).trans (ih _)

end KeepsPrograms

/-! ### The lane engine -/

section

variable (s : State) (l : LaneId)

theorem State.beginStep_keepsPrograms : KeepsPrograms s (s.beginStep l) := by
  unfold State.beginStep; split <;> exact .setLane ⟨rfl, rfl, rfl, rfl⟩

theorem State.haltLane_keepsPrograms (p : Position) (r : ResumePoint) : KeepsPrograms s (s.haltLane l p r) := by
  obtain ⟨-, hother, hrun, -⟩ := s.haltLane_haltsAt l p r
  exact .of_others hother hrun.1

theorem State.goOnAt_keepsPrograms (p : Position) : KeepsPrograms s (s.goOnAt l p) := by
  obtain ⟨-, hother, hrun, -⟩ := s.goOnAt_goesOnAt l p
  exact .of_others hother hrun.1

theorem State.startLane_keepsPrograms (src : StartSource) : KeepsPrograms s (s.startLane l src) := by
  unfold State.startLane
  split
  · have hl := s.takeStart_lane l src
    refine .of_others (s.takeStart_spec l src).2.1 ?_
    rw [hl]
    split <;> exact ⟨rfl, rfl, rfl, rfl⟩
  · exact .refl s

theorem State.endRun_keepsPrograms (r : Result) : KeepsPrograms s (s.endRun l r) := by
  refine .of_others (fun _ hk => s.endRun_other r hk) ?_
  rw [s.endRun_eq, State.lane_setLane_self]
  exact ⟨rfl, rfl, rfl, rfl⟩

theorem State.abortLane_keepsPrograms (r : Result) : KeepsPrograms s (s.abortLane l r) := by
  unfold State.abortLane; split
  · exact .refl s
  · exact s.endRun_keepsPrograms l r

theorem State.restartRun_keepsPrograms : KeepsPrograms s (s.restartRun l) := by
  refine KeepsPrograms.trans ?_ (State.goOnAt_keepsPrograms _ _ _)
  refine KeepsPrograms.trans (.setLane ?_) (.of_lanes (by rw [State.reachCheckpoint_lanes, State.recordStart_lanes]))
  exact ⟨rfl, rfl, rfl, rfl⟩

theorem State.endDecision_keepsPrograms : KeepsPrograms s (s.endDecision l) := by
  unfold State.endDecision; dsimp only; repeat' split
  · exact s.endRun_keepsPrograms l _
  · exact s.restartRun_keepsPrograms l
  · exact s.endRun_keepsPrograms l _

theorem State.afterHalt_keepsPrograms : KeepsPrograms s (s.afterHalt l) := by
  unfold State.afterHalt; dsimp only; split
  · exact s.endDecision_keepsPrograms l
  · exact (KeepsPrograms.of_lanes (s.reachCheckpoint_lanes _ _)).trans (State.goOnAt_keepsPrograms _ _ _)

theorem State.deliverCue_keepsPrograms (i : Nat) : KeepsPrograms s (s.deliverCue l i) := by
  unfold State.deliverCue; split
  · exact s.startLane_keepsPrograms _ _
  · exact .refl s

theorem State.complete_keepsPrograms : KeepsPrograms s (s.complete l) := by
  have h (i : Nat) : KeepsPrograms s (((s.reportMark l i).deliverCue l i).passCheckpoint l i) :=
    ((KeepsPrograms.of_lanes (s.reportMark_lanes l i)).trans (State.deliverCue_keepsPrograms _ l i)).trans
      (.of_lanes (State.passCheckpoint_lanes _ l i))
  unfold State.complete; dsimp only; split
  · exact (h _).trans (State.haltLane_keepsPrograms _ _ _ _)
  · exact (h _).trans (State.afterHalt_keepsPrograms _ _)

theorem State.endStep_keepsPrograms : KeepsPrograms s (s.endStep l) := by
  have h : KeepsPrograms s
      (s.setLane l { (s.lane l).noStep with position := (s.lane l).nextPosition }) :=
    .setLane ⟨rfl, rfl, rfl, rfl⟩
  unfold State.endStep; dsimp only; split
  · exact h.trans (State.complete_keepsPrograms _ _)
  · exact h.trans (State.goOnAt_keepsPrograms _ _ _)

theorem State.recordFault_keepsPrograms (b : RecordBody) : KeepsPrograms s (s.recordFault l b) :=
  (KeepsPrograms.of_lanes (s.takeRecord_lanes b)).trans (.setLane ⟨rfl, rfl, rfl, rfl⟩)

theorem State.act_keepsPrograms (m : Mismatch) {f : State → State} (hf : KeepsPrograms s (f s)) :
    KeepsPrograms s (s.act l m f) := by
  unfold State.act; split
  · exact hf
  · exact s.haltLane_keepsPrograms l _ _
  · exact s.abortLane_keepsPrograms l _

theorem State.holdExpires_keepsPrograms (st : StepRecord) : KeepsPrograms s (s.holdExpires l st) := by
  unfold State.holdExpires; dsimp only; split
  · exact (s.recordFault_keepsPrograms l _).trans
      (State.act_keepsPrograms _ _ _ (State.endStep_keepsPrograms _ _))
  · exact s.endStep_keepsPrograms l

/-- A fault in a step that checks, whatever GO_ON does (R63 to R67). -/
theorem State.faultInCheck_keepsPrograms (b : RecordBody) (m : Mismatch) {f : State → State}
    (hf : ∀ u, KeepsPrograms u (f u)) :
    KeepsPrograms s (((s.setLane l { s.lane l with checking := false }).recordFault l b).act l m f) := by
  have h : KeepsPrograms s (s.setLane l { s.lane l with checking := false }) := .setLane ⟨rfl, rfl, rfl, rfl⟩
  exact (h.trans (State.recordFault_keepsPrograms _ l b)).trans (State.act_keepsPrograms _ l m (hf _))

theorem State.limitExpires_keepsPrograms (st : StepRecord) : KeepsPrograms s (s.limitExpires l st) :=
  s.faultInCheck_keepsPrograms l _ _ fun u => u.endStep_keepsPrograms l

theorem State.compareAt_keepsPrograms (st : StepRecord) (v : Lines) : KeepsPrograms s (s.compareAt l st v) := by
  unfold State.compareAt; dsimp only
  split
  · split
    · exact .setLane ⟨rfl, rfl, rfl, rfl⟩
    · exact s.faultInCheck_keepsPrograms l _ _ .refl
  · split
    · exact s.endStep_keepsPrograms l
    · exact .setLane ⟨rfl, rfl, rfl, rfl⟩
  · exact .refl s
  · exact .refl s

theorem State.resumeLane_keepsPrograms : KeepsPrograms s (s.resumeLane l) := by
  have h : KeepsPrograms s (s.setLane l { s.lane l with state := .running, resumePoint := .none }) :=
    .setLane ⟨rfl, rfl, rfl, rfl⟩
  unfold State.resumeLane; dsimp only; split
  · exact h.trans (State.beginStep_keepsPrograms _ _)
  · exact h.trans (State.beginStep_keepsPrograms _ _)
  · exact h.trans (State.complete_keepsPrograms _ _)
  · exact h.trans (State.afterHalt_keepsPrograms _ _)

theorem State.askPause_keepsPrograms : KeepsPrograms s (s.askPause l) := by
  unfold State.askPause; split
  · exact .setLane ⟨rfl, rfl, rfl, rfl⟩
  · exact .refl s

end

/-! ### Watches and change events -/

section

variable (s : State)

theorem State.laneAction_keepsPrograms (w : WatchId) (l : LaneId) (a : LaneAction) :
    KeepsPrograms s (s.laneAction w l a) := by
  cases a with
  | start => exact s.startLane_keepsPrograms l _
  | pause => exact s.askPause_keepsPrograms l
  | abort => exact s.abortLane_keepsPrograms l _

theorem State.watchHit_keepsPrograms (w : WatchId) (d : WatchDef) (p v : Lines) :
    KeepsPrograms s (s.watchHit w d p v) := by
  have hrecord (u : State) : KeepsPrograms u
      (if d.record = true then u.takeRecord (.watchHit w v (p ^^^ v)) else u) := by
    split
    · exact .of_lanes (u.takeRecord_lanes _)
    · exact .refl u
  have hnotify (u : State) (n : Nat) : KeepsPrograms u
      (if d.notify = true then u.raise (.watchHit w) (.count n) else u) := by
    split
    · exact .of_lanes rfl
    · exact .refl u
  have hact (u : State) : KeepsPrograms u
      (match d.laneAction with | some (l, a) => u.laneAction w l a | none => u) := by
    split
    · exact u.laneAction_keepsPrograms _ _ _
    · exact .refl u
  have hset (u : State) (x : Watch) : KeepsPrograms u (u.setWatch w x) := .of_lanes rfl
  have hcounted := hset s { s.watch w with hits := saturate 65535 (s.watch w).hits }
  unfold State.watchHit
  dsimp only
  exact (((hcounted.trans (hrecord _)).trans (hnotify _ _)).trans (hact _)).trans (hset _ _)

theorem State.evaluateWatch_keepsPrograms (p v : Lines) (w : WatchId) :
    KeepsPrograms s (s.evaluateWatch p v w) := by
  unfold State.evaluateWatch
  split
  · split
    · exact s.watchHit_keepsPrograms _ _ _ _
    · exact .refl s
  · exact .refl s

theorem State.receiverTakes_keepsPrograms (p v : Lines) (r : Receiver) :
    KeepsPrograms s (s.receiverTakes p v r) := by
  cases r with
  | watchUnit => exact KeepsPrograms.foldl (fun u w => u.evaluateWatch_keepsPrograms p v w) watchIds s
  | lane l =>
    show KeepsPrograms s (s.laneTakesChange v l)
    unfold State.laneTakesChange; split
    · exact s.compareAt_keepsPrograms _ _ _
    · exact .refl s

theorem State.takeSample_keepsPrograms (order : List Receiver) : KeepsPrograms s (s.takeSample order) := by
  unfold State.takeSample
  split
  · exact .refl s
  · split
    · exact .of_lanes rfl
    · exact (KeepsPrograms.of_lanes rfl).trans
        (KeepsPrograms.foldl (fun u r => u.receiverTakes_keepsPrograms _ _ r) _ _)

theorem State.expireGuard_keepsPrograms : KeepsPrograms s s.expireGuard := by
  have hguard : KeepsPrograms s (s.setGuard .expired) := .of_lanes rfl
  have haborts := KeepsPrograms.foldl (fun u l => u.abortLane_keepsPrograms l .abortedGuard) laneIds
    (s.setGuard .expired)
  unfold State.expireGuard
  dsimp only
  generalize laneIds.foldl (fun u l => State.abortLane u l .abortedGuard) (s.setGuard .expired) = u at haborts ⊢
  exact (hguard.trans haborts).trans (.of_lanes (u.takeRecord_lanes _))

end

/-! ### Requests -/

section

variable (f : Frame) (s : State)

/-- A lane-set request keeps the programs when its act at a lane does (R83). -/
theorem onLaneSet_keepsPrograms {act : LaneAct} (hact : ∀ l u, KeepsPrograms u (act l u).1) :
    KeepsPrograms s (onLaneSet act f s).1 := by
  have hfold (ls : List LaneId) (acc : State × List Byte) :
      KeepsPrograms acc.1 (ls.foldl (laneSetStep (byteAt f.payload 0) act) acc).1 := by
    induction ls generalizing acc with
    | nil => exact .refl _
    | cons l ls ih =>
      refine KeepsPrograms.trans ?_ (ih _)
      unfold laneSetStep; split
      · exact hact l _
      · exact .refl _
  unfold onLaneSet; dsimp only
  split
  · exact .refl s
  · exact hfold laneIds (s, [])

theorem startAct_keepsPrograms (l : LaneId) : KeepsPrograms s (startAct l s).1 := by
  obtain ⟨hx, hsrc, e⟩ | ⟨-, e⟩ | ⟨-, e⟩ := startAct_cases s l <;> rw [e]
  · exact State.startLane_taken (src := .request) hx hsrc ▸ s.startLane_keepsPrograms l _
  · exact .refl s
  · exact .setLane ⟨rfl, rfl, rfl, rfl⟩

theorem pauseAct_keepsPrograms (l : LaneId) : KeepsPrograms s (pauseAct l s).1 := by
  unfold pauseAct; split
  · exact s.askPause_keepsPrograms l
  all_goals exact .refl s

theorem resumeAct_keepsPrograms (l : LaneId) : KeepsPrograms s (resumeAct l s).1 := by
  unfold resumeAct; split
  iterate 2 exact s.resumeLane_keepsPrograms l
  · split
    · exact .setLane ⟨rfl, rfl, rfl, rfl⟩
    · exact .refl s
  all_goals exact .refl s

theorem stopAct_keepsPrograms (l : LaneId) : KeepsPrograms s (stopAct l s).1 := by
  unfold stopAct; split
  iterate 3 exact .setLane ⟨rfl, rfl, rfl, rfl⟩
  all_goals exact .refl s

theorem abortAct_keepsPrograms (l : LaneId) : KeepsPrograms s (abortAct l s).1 := by
  unfold abortAct; split
  · exact .refl s
  all_goals exact s.abortLane_keepsPrograms l _

theorem onSetTime_keepsPrograms : KeepsPrograms s (onSetTime f s).1 := by
  have htriggers (ls : List LaneId) (acc : State × Nat) :
      KeepsPrograms acc.1 (ls.foldl judgeTrigger acc).1 := by
    induction ls generalizing acc with
    | nil => exact .refl _
    | cons l ls ih =>
      refine KeepsPrograms.trans ?_ (ih _)
      unfold judgeTrigger; dsimp only; split
      · exact acc.1.startLane_keepsPrograms l _
      · exact .refl _
  have hholdoff (u : State) (w : WatchId) : KeepsPrograms u (u.judgeHoldoff w) := by
    unfold State.judgeHoldoff
    repeat' split
    all_goals exact .of_lanes rfl
  have hjudged : KeepsPrograms s
      (State.judgeTriggers { s with timestamp := wordAt f.payload 0 + s.elapsedSince f }).1 :=
    htriggers laneIds ({ s with timestamp := wordAt f.payload 0 + s.elapsedSince f }, 0)
  unfold onSetTime
  dsimp only
  exact hjudged.trans (KeepsPrograms.foldl hholdoff watchIds _)

/-- Of a lane that is not IDLE, SET_SEGMENTS changes nothing (R34, check 2). -/
theorem onSetSegments_lane_of_busy {l : LaneId} (h : (s.lane l).state ≠ .idle) :
    (onSetSegments f s).1.lane l = s.lane l := by
  unfold onSetSegments; dsimp only
  split
  · rfl
  · rename_i k _
    by_cases hk : (s.lane k).state = .idle
    · have hne : k ≠ l := by rintro rfl; exact h hk
      repeat' split
      iterate 3 rfl
      · exact State.lane_setLane_ne _ _ hne
      · rfl
    · rw [if_pos hk]

/-- Of a lane that is not IDLE, SET_LANE changes nothing (R38, check 2). -/
theorem onSetLane_lane_of_busy {l : LaneId} (h : (s.lane l).state ≠ .idle) :
    (onSetLane f s).1.lane l = s.lane l := by
  unfold onSetLane
  split
  · rfl
  · rename_i k _
    by_cases hk : (s.lane k).state = .idle
    · have hne : k ≠ l := by rintro rfl; exact h hk
      repeat' split
      iterate 2 rfl
      · exact State.lane_setLane_ne _ _ hne
    · rw [if_pos hk]

/-- Of a lane that is not IDLE, ARM changes nothing (R40, check 2). -/
theorem onArm_lane_of_busy {l : LaneId} (h : (s.lane l).state ≠ .idle) :
    (onArm f s).1.lane l = s.lane l := by
  unfold onArm; dsimp only
  split
  · rfl
  · rename_i k _
    by_cases hk : (s.lane k).state = .idle
    · have hne : k ≠ l := by rintro rfl; exact h hk
      repeat' split
      iterate 5 rfl
      · exact State.lane_setLane_ne _ _ hne
    · rw [if_pos hk]

/-- A lane that a request finds and leaves not IDLE keeps its program: the handlers that write one write it at IDLE
lanes, and CLEAR leaves every lane IDLE (R34, R38, R40, R173). -/
theorem Request.handler_keepsProgram (r : Request) {l : LaneId} (hs : (s.lane l).state ≠ .idle)
    (ht : ((r.handler f s).1.lane l).state ≠ .idle) :
    ((r.handler f s).1.lane l).sameProgram (s.lane l) := by
  have same {t u : State} (e : t = u) (hu : u.lane l = s.lane l) : (t.lane l).sameProgram (s.lane l) := by
    rw [e, hu]; exact ⟨rfl, rfl, rfl, rfl⟩
  cases r with
  | setSegments => exact same rfl (onSetSegments_lane_of_busy f s hs)
  | setLane => exact same rfl (onSetLane_lane_of_busy f s hs)
  | arm => exact same rfl (onArm_lane_of_busy f s hs)
  | clear => exact absurd (congrArg Lane.state (State.lane_of_replicate (s := s.cleared) rfl l)) ht
  | setTime => exact onSetTime_keepsPrograms f s l
  | start => exact onLaneSet_keepsPrograms f s (fun k u => startAct_keepsPrograms u k) l
  | pause => exact onLaneSet_keepsPrograms f s (fun k u => pauseAct_keepsPrograms u k) l
  | resume => exact onLaneSet_keepsPrograms f s (fun k u => resumeAct_keepsPrograms u k) l
  | stop => exact onLaneSet_keepsPrograms f s (fun k u => stopAct_keepsPrograms u k) l
  | abort => exact onLaneSet_keepsPrograms f s (fun k u => abortAct_keepsPrograms u k) l
  | identify | readTime | restart | readLines | watchStatus | setLink | setGuard | trimRing => exact same rfl rfl
  | joinGroups => obtain ⟨g, e⟩ := onJoinGroups_state f s; exact same e rfl
  | linkStatus => obtain ⟨k, e, -⟩ := onLinkStatus_state f s; exact same e rfl
  | storeSteps => obtain ⟨x, e, -⟩ := onStoreSteps_rewrites f s; exact same e rfl
  | eraseSteps => obtain ⟨x, e, -⟩ := onEraseSteps_rewrites f s; exact same e rfl
  | readSteps => exact same (onReadSteps_state f s) rfl
  | pageStatus => exact same (onPageStatus_state f s) rfl
  | claimLines => obtain ⟨c, e⟩ := onClaimLines_state f s; exact same e rfl
  | releaseLines => obtain ⟨c, e⟩ := onReleaseLines_state f s; exact same e rfl
  | readSegments => exact same (onReadSegments_state f s) rfl
  | laneStatus => exact same (onLaneStatus_state f s) rfl
  | setWatch => obtain ⟨ws, e⟩ := onSetWatch_state f s; exact same e rfl
  | enableWatches => obtain ⟨ws, e⟩ := onEnableWatches_state f s; exact same e rfl
  | setRing => obtain ⟨x, e⟩ := onSetRing_state f s; exact same e rfl
  | readRing => exact same (onReadRing_state f s) rfl
  | setNoticeMask => obtain ⟨n, e⟩ := onSetNoticeMask_state f s; exact same e rfl
  | poll => obtain ⟨n, e, -⟩ := onPoll_state f s; exact same e rfl

end

/-! ### Commands -/

section

variable {s t : State}

/-- The decoder's step keeps the program of a lane that it finds and leaves not IDLE. -/
theorem State.Decoded.keepsProgram {r : Request} {l : LaneId} (h : s.Decoded r.handler t)
    (hs : (s.lane l).state ≠ .idle) (ht : (t.lane l).state ≠ .idle) :
    (t.lane l).sameProgram (s.lane l) := by
  obtain ⟨u, k, rfl | ⟨f, rest, rfl⟩, rfl, -⟩ := h
  · exact ⟨rfl, rfl, rfl, rfl⟩
  · exact r.handler_keepsProgram f (s.popInbound rest) hs ht

/-- The transmitter lets go of the line without a reset (R154, R155). -/
theorem State.releaseLine_lanes (ht : s.releaseLine.resetting = none) : s.releaseLine.lanes = s.lanes := by
  unfold State.releaseLine at ht ⊢
  split at ht
  · rfl
  · dsimp only at ht ⊢
    split at ht
    · exact absurd ht (State.beginReset_resetting _ _)
    · rename_i hrestart
      rw [if_neg hrestart]; rfl

/-- What an event outside a reset keeps. -/
theorem keepsPrograms_of_next {g : State → State} (hs : s.resetting = none)
    (h : (.next (s.outsideReset g) : Host.Outcome State Fault Refusal) = .next t)
    (hg : KeepsPrograms s (g s)) : KeepsPrograms s t := by
  rw [eq_of_next_outsideReset hs h]; exact hg

theorem ReceiverWork.keepsPrograms (h : ReceiverWork s t) : KeepsPrograms s t := .of_lanes (by rw [h.frame])

/-- A command outside a reset that begins none keeps the program of a lane that it finds and leaves not IDLE. -/
theorem exec_keepsProgram {c : Instr} {l : LaneId} (h : exec c s = .next t) (hs : s.resetting = none)
    (ht : t.resetting = none) (hbusy : (s.lane l).state ≠ .idle) (hbusy' : (t.lane l).state ≠ .idle) :
    (t.lane l).sameProgram (s.lane l) := by
  cases c using Instr.byRequest with
  | request r =>
    rw [exec_command] at h
    cases h
    exact (decoderStep_decoded r r.handler s).keepsProgram hbusy hbusy'
  | badKind => obtain ⟨k, rfl, -⟩ := execBadKind_link h; exact ⟨rfl, rfl, rfl, rfl⟩
  | powerReset => cases h; exact absurd ht (s.beginReset_resetting _)
  | resetPin => cases h; exact absurd ht (s.beginReset_resetting _)
  | fullResetEnd a d o =>
    have hsame : exec (.fullResetEnd a d o) s = .next s := by
      show execFullResetEnd a d o s = _
      unfold execFullResetEnd; rw [hs]
    rw [hsame] at h; cases h
    exact ⟨rfl, rfl, rfl, rfl⟩
  | byteReceived b m => exact keepsPrograms_of_next hs h (s.receiveByte_work b m).keepsPrograms l
  | frameReceived b m =>
    refine keepsPrograms_of_next hs h ?_ l
    split
    · exact (s.receiveByte_work b m).keepsPrograms
    · exact .refl s
  | framingError m =>
    refine keepsPrograms_of_next hs h ?_ l
    split <;> exact .of_lanes rfl
  | gapTimeout =>
    refine keepsPrograms_of_next hs h ?_ l
    split <;> exact .of_lanes rfl
  | replyDelayExpiry =>
    refine keepsPrograms_of_next hs h ?_ l
    repeat' split
    all_goals exact .of_lanes rfl
  | replyEnd =>
    rw [eq_of_next_outsideReset hs h] at ht ⊢
    split at ht
    · rename_i hover; rw [if_pos hover]; exact KeepsPrograms.of_lanes (State.releaseLine_lanes ht) l
    · rename_i hover; rw [if_neg hover]; exact KeepsPrograms.refl s l
  | collision i b =>
    rw [eq_of_next_outsideReset hs h] at ht ⊢
    split at ht
    · rename_i hback; rw [if_pos hback]; exact KeepsPrograms.of_lanes (State.releaseLine_lanes ht) l
    · rename_i hback; rw [if_neg hback]; exact KeepsPrograms.refl s l
  | changeEvent o rs =>
    refine keepsPrograms_of_next hs h ?_ l
    exact (KeepsPrograms.of_lanes rfl).trans (State.takeSample_keepsPrograms { s with outside := o } rs)
  | openingComparison k =>
    refine keepsPrograms_of_next hs h ?_ l
    have hopened : KeepsPrograms s (s.setLane k { s.lane k with opened := true }) := .setLane ⟨rfl, rfl, rfl, rfl⟩
    repeat' split
    · exact hopened.trans (State.compareAt_keepsPrograms _ _ _ _)
    all_goals exact .refl s
  | holdExpiry k =>
    refine keepsPrograms_of_next hs h ?_ l
    repeat' split
    · exact s.holdExpires_keepsPrograms k _
    all_goals exact .refl s
  | awaitTimeout k =>
    refine keepsPrograms_of_next hs h ?_ l
    repeat' split
    · exact s.limitExpires_keepsPrograms k _
    all_goals exact .refl s
  | timeTrigger k =>
    refine keepsPrograms_of_next hs h ?_ l
    split
    · exact s.startLane_keepsPrograms k _
    · exact .refl s
  | holdoffExpiry w =>
    refine keepsPrograms_of_next hs h ?_ l
    split <;> exact .of_lanes rfl
  | guardExpiry =>
    refine keepsPrograms_of_next hs h ?_ l
    split
    · exact s.expireGuard_keepsPrograms
    · exact .refl s

end

/-! ### The claim of a lane that is not IDLE (R25, R27) -/

/-- Every line that lane `l` owns before or after keeps its entry of the claim map. -/
def State.keepsClaim (t s : State) (l : LaneId) : Prop :=
  ∀ n, n < 40 → (s.claim n).owner = some l ∨ (t.claim n).owner = some l → t.claim n = s.claim n

section

variable {s t : State} {l : LaneId}

/-- A claim or a release of another lane, of lines that no third lane owns, changes no line of lane `l`. -/
theorem State.claimFor_keepsClaim {k : LaneId} {drive sense rest : Lines} (hk : k ≠ l)
    (hfree : lowestLine ((drive ||| sense) &&& s.takenByOthers k) = none) :
    (s.claimFor k drive sense rest).keepsClaim s l := by
  intro n hn ho
  have hclaim := s.claim_claimFor k drive sense rest n hn
  have hkl : some k ≠ some l := fun e => hk (Option.some.inj e)
  have hunset : ¬ (drive.getLsbD n = true ∨ sense.getLsbD n = true) := fun hset => by
    have hafter : ((s.claimFor k drive sense rest).claim n).owner = some k := by
      rw [hclaim]
      split
      · rfl
      · rename_i hdrive
        rw [if_pos (hset.resolve_left hdrive)]; rfl
    have howner := ho.resolve_right (by rw [hafter]; exact hkl)
    have htaken := (s.takenByOthers_bit hn k).2 ⟨l, Ne.symm hk, howner⟩
    have hbit := lowestLine_eq_none.1 hfree n hn
    rw [BitVec.getLsbD_and, BitVec.getLsbD_or, htaken, Bool.and_true, Bool.or_eq_false_iff] at hbit
    exact hset.elim (fun h => by rw [h] at hbit; cases hbit.1) fun h => by rw [h] at hbit; cases hbit.2
  obtain ⟨hdrive, hsense⟩ := not_or.1 hunset
  rw [hclaim, if_neg hdrive, if_neg hsense] at ho ⊢
  refine if_neg fun hown => ?_
  rw [if_pos hown, hown] at ho
  exact ho.elim hkl nofun

/-- CLAIM_LINES leaves the claim of a lane that is not IDLE (R25). -/
theorem onClaimLines_keepsClaim (f : Frame) (hl : (s.lane l).state ≠ .idle) :
    (onClaimLines f s).1.keepsClaim s l := by
  unfold onClaimLines
  dsimp only
  split
  · exact fun _ _ _ => rfl
  · rename_i k _
    by_cases hk : (s.lane k).state = .idle
    · have hne : k ≠ l := by rintro rfl; exact hl hk
      repeat' split
      iterate 3 exact fun _ _ _ => rfl
      · rename_i hfree
        exact s.claimFor_keepsClaim hne hfree
    · rw [if_pos hk]; exact fun _ _ _ => rfl

/-- RELEASE_LINES leaves the claim of a lane that is not IDLE (R27). -/
theorem onReleaseLines_keepsClaim (f : Frame) (hl : (s.lane l).state ≠ .idle) :
    (onReleaseLines f s).1.keepsClaim s l := by
  unfold onReleaseLines
  split
  · exact fun _ _ _ => rfl
  · rename_i k _
    by_cases hk : (s.lane k).state = .idle
    · have hne : k ≠ l := by rintro rfl; exact hl hk
      rw [if_neg (not_not.2 hk)]
      exact s.claimFor_keepsClaim hne (lowestLine_eq_none.2 fun n hn => by simp)
    · rw [if_pos hk]; exact fun _ _ _ => rfl

/-- The decoder's step keeps what its handler keeps of the claim of a lane that is not IDLE after it. -/
theorem State.Decoded.keepsClaim {g : Handler} (h : s.Decoded g t) (ht : (t.lane l).state ≠ .idle)
    (hg : ∀ f u, (u.lane l).state = (s.lane l).state → ((g f u).1.lane l).state ≠ .idle →
      (g f u).1.keepsClaim u l) : t.keepsClaim s l := by
  obtain ⟨u, k, rfl | ⟨f, rest, rfl⟩, rfl, -⟩ := h
  · exact fun _ _ _ => rfl
  · exact hg f (s.popInbound rest) rfl ht

/-- A command outside a reset that begins none keeps the claim of a lane that it finds and leaves not IDLE. -/
theorem exec_keepsClaim {c : Instr} (h : exec c s = .next t) (hs : s.resetting = none) (ht : t.resetting = none)
    (hbusy : (s.lane l).state ≠ .idle) (hbusy' : (t.lane l).state ≠ .idle) : t.keepsClaim s l := by
  by_cases hc : Field.claims.WrittenBy c
  · rcases hc with rfl | rfl | rfl <;> cases h
    · exact (decoderStep_decoded .claimLines _ s).keepsClaim hbusy' fun f u hu _ =>
        onClaimLines_keepsClaim f (by rwa [hu])
    · exact (decoderStep_decoded .releaseLines _ s).keepsClaim hbusy' fun f u hu _ =>
        onReleaseLines_keepsClaim f (by rwa [hu])
    · exact (decoderStep_decoded .clear _ s).keepsClaim hbusy' fun f u _ hleft =>
        absurd (congrArg Lane.state (State.lane_of_replicate (s := u.cleared) rfl l)) hleft
  · have hsame : t.claims = s.claims := exec_val (F := .claims) h hs ht hc
    exact fun n _ _ => by simp [State.claim, hsame]

end

/-- Settles O52: list and options by `exec_keepsProgram`, the claim by `exec_keepsClaim`. -/
theorem laneInFlightKeepsItsProgramAndClaim : Obligations.LaneInFlightKeepsItsProgramAndClaim := by
  intro c s t l h hs ht hbusy hbusy'
  obtain ⟨hlist, hoptions, -⟩ := exec_keepsProgram h hs ht hbusy hbusy'
  exact ⟨hlist, hoptions, exec_keepsClaim h hs ht hbusy hbusy'⟩

end Sys2Proof.Machine

/-!
SUPPORT. The events that are due at a moment (R22, R46, R51, R53, R107, R154, R166): each due test in the words of the
rules, the list of due events by its members, and that a timer event which is not due changes nothing.
-/

namespace Sys2Proof.Machine

/-! ### The due tests -/

/-- The step timer of a RUNNING lane has run out (R51). -/
theorem Lane.timerDue_iff {x : Lane} {kind : StepKind} {now : Moment} :
    x.timerDue kind now = true ↔
      ∃ st t, x.state = .running ∧ x.current = some st ∧ st.kind = kind ∧ x.timer = some t ∧ t ≤ now := by
  unfold Lane.timerDue
  split
  · rename_i st t hrun hst htimer
    simp [hrun, hst, htimer]
  · rename_i hno
    refine ⟨nofun, ?_⟩
    rintro ⟨st, t, hrun, hst, -, htimer, -⟩
    exact (hno st t hrun hst htimer).elim

theorem Check.opens_iff {c : Check} : c.opens = true ↔ c = .throughout ∨ c = .awaitMatch := by
  cases c <;> simp [Check.opens]

theorem Lane.timerOpen_iff {x : Lane} {now : Moment} :
    x.timerOpen now = true ↔ ∀ t, x.timer = some t → now ≤ t := by
  unfold Lane.timerOpen
  split <;> simp [*]

/-- An opening comparison is due after its settle window, once this microsecond has its sample (R53). -/
theorem State.openingDue_iff {s : State} {l : LaneId} :
    s.openingDue l = true ↔
      ∃ st e, (s.lane l).state = .running ∧ (s.lane l).current = some st ∧ st.check.opens = true
        ∧ (s.lane l).opened = false ∧ (s.lane l).settleEnd = some e ∧ e < s.now ∧ s.sampleAt = s.now
        ∧ ∀ t, (s.lane l).timer = some t → s.now ≤ t := by
  unfold State.openingDue Lane.openingDue
  split
  · rename_i st e hrun hst hend
    simp [hrun, hst, hend, Lane.timerOpen_iff, and_assoc, and_comm, and_left_comm]
  · rename_i hno
    rw [Bool.and_false]
    refine ⟨nofun, ?_⟩
    rintro ⟨st, e, hrun, hst, -, -, hend, -⟩
    exact (hno st e hrun hst hend).elim

theorem Lane.triggerDue_iff {x : Lane} {stamp : Stamp} :
    x.triggerDue stamp = true ↔ x.state = .armed ∧ x.triggerArmed = true ∧ stamp = x.startTime := by
  simp [Lane.triggerDue, and_assoc]

theorem State.guardDue_iff {s : State} :
    s.guardDue = true ↔ ∃ since, s.guard = .running since ∧ since + s.guardPeriod.toNat * 1000 ≤ s.now := by
  unfold State.guardDue
  split <;> simp [*]

theorem Link.replyDue_iff {k : Link} {now : Moment} :
    k.replyDue now = true ↔
      ∃ x, k.slot = some x ∧ x.sendingSince = none
        ∧ k.replyDelay.toNat * 10 * 1000000 ≤ (now - x.requestEnd) * Config.bitRate k.rate := by
  unfold Link.replyDue
  split <;> simp [*, Link.charsPassed]

/-- A reply frame has 8 bytes besides its payload (R153, R175). -/
theorem Reply.frame_length (r : Reply) (address : BitVec 5) :
    (r.frame address).length = r.payload.length + 8 := by
  simp [Reply.frame, Reply.body, crcBytes]

theorem Link.replyOver_iff {k : Link} {now : Moment} :
    k.replyOver now = true ↔
      ∃ x since, k.slot = some x ∧ x.sendingSince = some since
        ∧ (x.reply.payload.length + 8) * 10 * 1000000 ≤ (now - since) * Config.bitRate k.rate := by
  unfold Link.replyOver
  split
  · split <;> simp [*, Link.charsPassed, Reply.frame_length]
  · simp [*]

/-! ### The list of due events -/

theorem mem_laneIds (l : LaneId) : l ∈ laneIds := by fin_cases l <;> decide

theorem mem_watchIds (w : WatchId) : w ∈ watchIds := by fin_cases w <;> decide

theorem State.dueEvents_in_reset {s : State} (h : s.resetting ≠ none) : s.dueEvents = [] := by
  unfold State.dueEvents
  split
  · rfl
  · contradiction

/-- The timer events of a lane that are due. -/
theorem State.mem_laneDue {s : State} {l : LaneId} {c : Instr} :
    c ∈ s.laneDue l ↔
      (c = .holdExpiry l ∧ (s.lane l).holdDue s.now = true)
        ∨ (c = .awaitTimeout l ∧ (s.lane l).awaitDue s.now = true)
        ∨ (c = .openingComparison l ∧ s.openingDue l = true)
        ∨ (c = .timeTrigger l ∧ (s.lane l).triggerDue s.timestamp = true) := by
  simp only [State.laneDue, List.mem_append, List.mem_ite_nil_right, List.mem_singleton, or_assoc,
    and_comm]

/-- Outside a reset an event is due by the test of its kind. -/
theorem State.mem_dueEvents {s : State} {c : Instr} (h : s.resetting = none) :
    c ∈ s.dueEvents ↔
      (∃ l, c = .holdExpiry l ∧ (s.lane l).holdDue s.now = true)
        ∨ (∃ l, c = .awaitTimeout l ∧ (s.lane l).awaitDue s.now = true)
        ∨ (∃ l, c = .openingComparison l ∧ s.openingDue l = true)
        ∨ (∃ l, c = .timeTrigger l ∧ (s.lane l).triggerDue s.timestamp = true)
        ∨ (∃ w, c = .holdoffExpiry w ∧ (s.watch w).holdoffDue s.timestamp = true)
        ∨ (c = .guardExpiry ∧ s.guardDue = true)
        ∨ (c = .replyDelayExpiry ∧ s.link.replyDue s.now = true)
        ∨ (c = .replyEnd ∧ s.link.replyOver s.now = true)
        ∨ (c = .changeEvent s.outside (Config.freeOrder s.freeIx) ∧ s.sampleDue = true) := by
  unfold State.dueEvents
  split
  · rename_i hc; rw [h] at hc; cases hc
  · simp only [List.mem_append, List.mem_flatMap, mem_laneIds, mem_watchIds, true_and, State.mem_laneDue,
      State.watchDue, List.mem_ite_nil_right, List.mem_singleton, exists_or, or_assoc, and_comm]

/-! ### An event that is not due (notes/assumptions/3.md) -/

/-- An event that does nothing outside a reset does nothing at all. -/
theorem State.outsideReset_same {s : State} {f : State → State} (h : s.resetting = none → f s = s) :
    s.outsideReset f = s := by
  by_cases hs : s.resetting = none
  · rw [State.outsideReset_none s f hs, h hs]
  · exact State.outsideReset_some s f hs

/-- A timer event that is not due changes nothing, in a reset and outside one. -/
theorem exec_not_due {s : State} {l : LaneId} {w : WatchId} {c : Instr}
    (hc : c ∈ [.holdExpiry l, .awaitTimeout l, .openingComparison l, .timeTrigger l, .holdoffExpiry w,
      .guardExpiry, .replyDelayExpiry, .replyEnd]) (hdue : c ∉ s.dueEvents) : exec c s = .next s := by
  simp only [List.mem_cons, List.not_mem_nil, or_false] at hc
  rcases hc with rfl | rfl | rfl | rfl | rfl | rfl | rfl | rfl <;>
    refine congrArg Host.Outcome.next (State.outsideReset_same fun hs => ?_) <;>
    rw [State.mem_dueEvents hs] at hdue
  · split
    · exact if_neg fun h => hdue (.inl ⟨l, rfl, h⟩)
    · rfl
  · split
    · exact if_neg fun h => hdue (.inr (.inl ⟨l, rfl, h⟩))
    · rfl
  · split
    · exact if_neg fun h => hdue (.inr (.inr (.inl ⟨l, rfl, h⟩)))
    · rfl
  · exact if_neg fun h => hdue (.inr (.inr (.inr (.inl ⟨l, rfl, h⟩))))
  · exact if_neg fun h => hdue (.inr (.inr (.inr (.inr (.inl ⟨w, rfl, h⟩)))))
  · exact if_neg fun h => hdue (.inr (.inr (.inr (.inr (.inr (.inl ⟨rfl, h⟩))))))
  · split
    · exact if_neg fun h => hdue (.inr (.inr (.inr (.inr (.inr (.inr (.inl ⟨rfl, h⟩)))))))
    · rfl
  · exact if_neg fun h => hdue (.inr (.inr (.inr (.inr (.inr (.inr (.inr (.inl ⟨rfl, h⟩))))))))

/-- Settles O3: the list of due events by its members, each due test in the words of its rule. -/
theorem timerEventsActExactlyWhenDue : Obligations.TimerEventsActExactlyWhenDue := by
  refine ⟨fun s c => ?_, fun s l w c hc hdue => exec_not_due hc hdue⟩
  by_cases hs : s.resetting = none
  · rw [State.mem_dueEvents hs]
    simp only [hs, true_and, Lane.holdDue, Lane.awaitDue, Lane.timerDue_iff, State.openingDue_iff,
      Lane.triggerDue_iff, Watch.holdoffDue, State.guardDue_iff, Link.replyDue_iff, Link.replyOver_iff,
      State.sampleDue, decide_eq_true_eq, Check.opens_iff, exists_and_left]
  · simp only [State.dueEvents_in_reset hs, hs, List.not_mem_nil, false_and]

end Sys2Proof.Machine

/-!
SUPPORT. What follows a step's end and a fault (R54 to R70): the hold that expires without a fault, and the three
faults, each reported and then acted on.
-/

namespace Sys2Proof.Machine

/-- Settles O43: the expiry ends the step, and `State.endStep_endsStep` says what the end of a step does. -/
theorem holdExpiryEndsTheStep : Obligations.HoldExpiryEndsTheStep := by
  intro s l st due htimer hkind hcheck
  have ⟨_, hrun, _, hdue, _⟩ := htimer
  refine ⟨s.endStep l, ?_, s.endStep_endsStep l (by rw [hrun]; decide)⟩
  rw [htimer.exec_holdExpiry hkind, State.holdExpires_endStep hdue hcheck]

/-- AWAIT_TIMEOUT in an AWAIT step whose limit has run out (R59). -/
theorem State.timerRunsOut.exec_awaitTimeout {s : State} {l : LaneId} {st : StepRecord} {due : Moment}
    (h : s.timerRunsOut l st due) (hkind : st.kind = .await) :
    exec (.awaitTimeout l) s = .next (s.limitExpires l st) := by
  obtain ⟨hreset, hrun, hst, htimer, hdue⟩ := h
  have hlimit : (s.lane l).awaitDue s.now = true :=
    Lane.timerDue_iff.2 ⟨st, due, hrun, hst, hkind, htimer, hdue⟩
  refine congrArg Host.Outcome.next ((s.outsideReset_none _ hreset).trans ?_)
  simp only [hst, hlimit, if_true]

/-- Whether a lane still checks plays no part in what its run does next. -/
theorem Lane.alike_checking (x : Lane) (b : Bool) : ({ x with checking := b } : Lane).Alike x :=
  ⟨⟨⟨rfl, rfl, rfl, rfl⟩, rfl, rfl, rfl, rfl, rfl, rfl, rfl⟩, rfl, rfl, rfl, rfl⟩

/-- A fault recorded at a lane as it stands: the reports of a fault, but that the lane checks as before. -/
theorem State.recordFault_eq_faultReports (s : State) (l : LaneId) (b : RecordBody) :
    s.recordFault l b =
      (s.faultReports l b).setLane l
        { (s.faultReports l b).lane l with checking := (s.lane l).checking } := by
  rw [State.faultReports_lane_self]
  unfold State.recordFault State.faultReports
  dsimp only
  rw [State.setLane_setLane, State.raiseLane_lane, State.takeRecord_lane]
  rfl

/-- A failed AT_END comparison is a fault (R55, R56). -/
theorem State.holdExpires_followsFault {s : State} {l : LaneId} {st : StepRecord} {due e : Moment}
    (hrun : (s.lane l).state = .running) (hdue : (s.lane l).timer = some due) (hcheck : st.check = .atEnd)
    (hend : (s.lane l).settleEnd = some e) (he : e < due) (hoff : st.off s.sampled ≠ 0) :
    (s.holdExpires l st).followsFault s l st
      (.stepFault l (s.lane l).position .atEnd s.sampled (st.off s.sampled)) := by
  have hsettled : (s.lane l).settledAtEnd = true := by simp [Lane.settledAtEnd, hend, hdue, he]
  have hfails : st.matches_ s.sampled = false := by
    rw [Bool.eq_false_iff, Ne, StepRecord.matches_iff]; exact hoff
  have heq : s.holdExpires l st =
      (s.recordFault l (.stepFault l (s.lane l).position .atEnd s.sampled (st.off s.sampled))).act l
        st.onMismatch (·.endStep l) := by
    unfold State.holdExpires
    dsimp only
    rw [if_pos ⟨hcheck, hsettled, hfails⟩, hcheck]
    rfl
  rw [heq, State.recordFault_eq_faultReports]
  exact s.act_followsFault l st _ _ _ hrun (Lane.alike_checking _ _) rfl
    (fun hc => absurd (hcheck.symm.trans hc) (by decide)) fun _ => rfl

/-- The limit of an AWAIT step that expires is a fault (R59). -/
theorem State.limitExpires_followsFault {s : State} {l : LaneId} {st : StepRecord}
    (hrun : (s.lane l).state = .running) (hcheck : st.check = .awaitMatch) :
    (s.limitExpires l st).followsFault s l st
      (.awaitTimeout l (s.lane l).position .awaitMatch s.sampled (st.off s.sampled)) := by
  have heq : s.limitExpires l st =
      (s.faultReports l (.awaitTimeout l (s.lane l).position .awaitMatch s.sampled (st.off s.sampled))).act l
        st.onMismatch (·.endStep l) := by
    unfold State.limitExpires
    dsimp only
    rw [State.recordFault_eq, hcheck]
    rfl
  rw [heq, ← State.setLane_lane_self (s.faultReports l _) l]
  exact s.act_followsFault l st _ _ _ hrun (Lane.alike_checking _ _) rfl
    (fun hc => absurd (hcheck.symm.trans hc) (by decide)) fun _ => rfl

/-- The lane that compares stands where it stood at the command (R53, R62). -/
theorem State.compares.position_eq {s s' : State} {c : Instr} {l : LaneId} {st : StepRecord} {v : Lines}
    (h : s.compares c l st v s') : (s'.lane l).position = (s.lane l).position := by
  obtain ⟨-, -, -, -, ⟨-, -, -, -, -, -, rfl⟩ | ⟨o, order, -, -, -, -, -, rfl⟩⟩ := h
  · rw [State.lane_setLane_self]
  · rfl

/-- Settles O45: each of the three faults by its own lemma, a failed THROUGHOUT comparison by
`State.compareAt_spec`. -/
theorem faultIsReportedThenActedOn : Obligations.FaultIsReportedThenActedOn := by
  intro s s' c l st body h
  rcases h with ⟨due, e, rfl, rfl, htimer, hkind, hcheck, hend, he, hoff, rfl⟩
    | ⟨due, rfl, rfl, htimer, hkind, hcheck, rfl⟩ | ⟨v, hcompares, hcheck, hoff, rfl⟩
  · have ⟨_, hrun, _, hdue, _⟩ := htimer
    exact ⟨_, htimer.exec_holdExpiry hkind,
      State.holdExpires_followsFault hrun hdue hcheck hend he hoff⟩
  · have ⟨_, hrun, _⟩ := htimer
    exact ⟨_, htimer.exec_awaitTimeout hkind, State.limitExpires_followsFault hrun hcheck⟩
  · obtain ⟨hrun, hexec⟩ := hcompares.exec_eq
    obtain ⟨-, hfault, -⟩ := s'.compareAt_spec l st v hrun
    have hposition : (s'.lane l).position = (s.lane l).position := hcompares.position_eq
    exact ⟨_, hexec, hposition ▸ hfault hcheck hoff⟩

end Sys2Proof.Machine

/-!
SUPPORT. The times of the lanes (R50, R51, R53): every moment a lane waits for lies ahead (`Lane.onTime`), and outside a
reset all lanes are on time and the sampler has kept up (`State.Punctual`). The lane engine keeps a station punctual:
it stops the times of a step, or sets them from the present moment.
-/

namespace Sys2Proof.Machine

/-! ### The times of one lane -/

/-- The step timer lies ahead, and an opening comparison to be made is at most 1 microsecond late. -/
def Lane.onTime (x : Lane) (now : Moment) : Prop :=
  (∀ t, x.timer = some t → now ≤ t)
    ∧ ∀ st e, x.current = some st → st.check.opens = true → x.opened = false → x.settleEnd = some e →
        now ≤ e + 1

/-- What the times of a lane are judged by. -/
structure Lane.SameTimes (y x : Lane) : Prop where
  current : y.current = x.current
  timer : y.timer = x.timer
  settleEnd : y.settleEnd = x.settleEnd
  opened : y.opened = x.opened

theorem Lane.onTime.congr {x y : Lane} {now : Moment} (h : x.onTime now) (e : y.SameTimes x) :
    y.onTime now := by
  unfold Lane.onTime
  rw [e.current, e.timer, e.settleEnd, e.opened]
  exact h

/-- A lane whose times are stopped waits for nothing (R62, R72, R85). -/
theorem Lane.onTime_of_stopped {x : Lane} {now : Moment} (ht : x.timer = none) (he : x.settleEnd = none) :
    x.onTime now := ⟨by simp [ht], by simp [he]⟩

/-- The times of a step that begins now lie ahead (R50, R51). -/
theorem Lane.withStep_onTime (x : Lane) (st : StepRecord) (now : Moment) : (x.withStep st now).onTime now := by
  refine ⟨fun t ht => ?_, fun _ e _ _ _ he => ?_⟩
  · change st.deadline x.options.tick.micros now = some t at ht
    unfold StepRecord.deadline at ht
    split at ht
    · cases ht; exact Nat.le_add_right _ _
    · split at ht
      · cases ht
      · cases ht; exact Nat.le_add_right _ _
  · cases he; exact Nat.le_add_right_of_le (Nat.le_add_right _ _)

/-! ### The lane engine -/

/-- Outside a reset, with this microsecond's sample or the one before's taken and every lane on time. -/
structure State.Punctual (s : State) : Prop where
  running : s.resetting = none
  sample : s.sampleAt = s.now ∨ s.sampleAt + 1 = s.now
  lanes : ∀ l, (s.lane l).onTime s.now

namespace State.Punctual

variable {s t : State} {l : LaneId}

/-- Lanes, clock and sampler alone are judged. -/
theorem congr (h : s.Punctual) (hl : t.lanes = s.lanes) (hr : t.resetting = s.resetting)
    (hn : t.now = s.now) (ha : t.sampleAt = s.sampleAt) : t.Punctual where
  running := hr.trans h.running
  sample := by rw [hn, ha]; exact h.sample
  lanes k := by
    have e : t.lane k = s.lane k := by simp [State.lane, hl]
    rw [e, hn]; exact h.lanes k

theorem congr_work (h : s.Punctual) (hw : LaneWork s t) (hl : t.lanes = s.lanes) : t.Punctual :=
  h.congr hl hw.resetting hw.now hw.sampleAt

theorem congr_of_eq {u : State} (h : s.Punctual) (e : t = u) (hl : u.lanes = s.lanes)
    (hr : u.resetting = s.resetting) (hn : u.now = s.now) (ha : u.sampleAt = s.sampleAt) : t.Punctual :=
  e ▸ h.congr hl hr hn ha

/-- The work of one lane, which it leaves on time. -/
theorem change (h : s.Punctual) (hw : LaneWork s t) (ho : t.keepsOtherLanes s l)
    (hl : (t.lane l).onTime s.now) : t.Punctual where
  running := hw.resetting.trans h.running
  sample := by rw [hw.now, hw.sampleAt]; exact h.sample
  lanes k := by
    rw [hw.now]
    by_cases hk : k = l
    · subst hk; exact hl
    · rw [ho k hk]; exact h.lanes k

theorem setLane {x : Lane} (h : s.Punctual) (hx : x.onTime s.now) : (s.setLane l x).Punctual :=
  h.change (s.setLane_work l x) (fun _ hk => State.lane_setLane_ne _ _ (Ne.symm hk))
    (by rwa [State.lane_setLane_self])

/-- A lane changes, but for its times. -/
theorem setLane_sameTimes {x : Lane} (h : s.Punctual) (e : x.SameTimes (s.lane l)) :
    (s.setLane l x).Punctual := h.setLane ((h.lanes l).congr e)

theorem raise (h : s.Punctual) (k : NoticeKey) (d : NoticeDetail) : (s.raise k d).Punctual :=
  h.congr rfl rfl rfl rfl

theorem raiseLane (h : s.Punctual) (k : LaneNotice) (l : LaneId) (d : NoticeDetail) :
    (s.raiseLane k l d).Punctual := h.raise _ _

theorem takeRecord (h : s.Punctual) (b : RecordBody) : (s.takeRecord b).Punctual :=
  h.congr_work (s.takeRecord_work b) (s.takeRecord_lanes b)

/-- A fold of acts that keep a station punctual. -/
theorem foldl {α : Type} {f : State → α → State} (hf : ∀ u a, u.Punctual → (f u a).Punctual) (xs : List α)
    (h : s.Punctual) : (xs.foldl f s).Punctual := by
  induction xs generalizing s with
  | nil => exact h
  | cons a as ih => exact ih (hf s a h)

theorem beginStep (h : s.Punctual) (l : LaneId) : (s.beginStep l).Punctual := by
  unfold State.beginStep
  split
  · exact h.setLane (Lane.withStep_onTime _ _ _)
  · exact h.setLane (Lane.onTime_of_stopped rfl rfl)

theorem haltLane (h : s.Punctual) (l : LaneId) (p : Position) (r : ResumePoint) :
    (s.haltLane l p r).Punctual :=
  (h.setLane (Lane.onTime_of_stopped rfl rfl)).raiseLane _ _ _

theorem pauseLane (h : s.Punctual) (l : LaneId) (p : Position) : (s.pauseLane l p).Punctual :=
  (h.setLane (Lane.onTime_of_stopped rfl rfl)).raiseLane _ _ _

theorem goOnAt (h : s.Punctual) (l : LaneId) (p : Position) : (s.goOnAt l p).Punctual := by
  unfold State.goOnAt
  split
  · exact h.pauseLane l p
  · have hmoved : (s.setLane l { s.lane l with position := p }).Punctual :=
      h.setLane_sameTimes ⟨rfl, rfl, rfl, rfl⟩
    exact hmoved.beginStep l

theorem reachCheckpoint (h : s.Punctual) (l : LaneId) (i : Nat) : (s.reachCheckpoint l i).Punctual :=
  h.congr_work (s.reachCheckpoint_work l i) (s.reachCheckpoint_lanes l i)

theorem recordStart (h : s.Punctual) (l : LaneId) (src : Option StartSource) :
    (s.recordStart l src).Punctual :=
  h.congr_work (s.recordStart_work l src) (s.recordStart_lanes l src)

theorem startLane (h : s.Punctual) (l : LaneId) (src : StartSource) : (s.startLane l src).Punctual := by
  refine h.change (s.startLane_work l src) (fun _ hk => s.startLane_other src hk) ?_
  unfold State.startLane
  split
  · rw [State.takeStart_lane]
    split
    · exact Lane.withStep_onTime _ _ _
    · exact Lane.onTime_of_stopped rfl rfl
  · exact h.lanes l

theorem endRun (h : s.Punctual) (l : LaneId) (r : Result) : (s.endRun l r).Punctual := by
  refine h.change (s.endRun_work l r) (fun _ hk => s.endRun_other r hk) ?_
  rw [s.endRun_eq, State.lane_setLane_self]
  exact Lane.onTime_of_stopped rfl rfl

theorem abortLane (h : s.Punctual) (l : LaneId) (r : Result) : (s.abortLane l r).Punctual := by
  unfold State.abortLane; split
  · exact h
  · exact h.endRun l r

theorem restartRun (h : s.Punctual) (l : LaneId) : (s.restartRun l).Punctual := by
  have hcounted := h.setLane_sameTimes (l := l)
    (x := { s.lane l with
      restartPending := false, passCount := saturate 65535 (s.lane l).passCount
      position := Position.first }) ⟨rfl, rfl, rfl, rfl⟩
  exact ((hcounted.recordStart l _).reachCheckpoint l 0).goOnAt l _

theorem endDecision (h : s.Punctual) (l : LaneId) : (s.endDecision l).Punctual := by
  unfold State.endDecision; dsimp only; repeat' split
  · exact h.endRun l _
  · exact h.restartRun l
  · exact h.endRun l _

theorem afterHalt (h : s.Punctual) (l : LaneId) : (s.afterHalt l).Punctual := by
  unfold State.afterHalt; dsimp only; split
  · exact h.endDecision l
  · exact (h.reachCheckpoint l _).goOnAt l _

theorem deliverCue (h : s.Punctual) (l : LaneId) (i : Nat) : (s.deliverCue l i).Punctual := by
  unfold State.deliverCue; split
  · exact h.startLane _ _
  · exact h

theorem complete (h : s.Punctual) (l : LaneId) : (s.complete l).Punctual := by
  have hcued (i : Nat) : (((s.reportMark l i).deliverCue l i).passCheckpoint l i).Punctual :=
    ((h.congr_work (s.reportMark_work l i) (s.reportMark_lanes l i)).deliverCue l i).congr_work
      (State.passCheckpoint_work _ l i) (State.passCheckpoint_lanes _ l i)
  unfold State.complete; dsimp only; split
  · exact (hcued _).haltLane l _ _
  · exact (hcued _).afterHalt l

theorem endStep (h : s.Punctual) (l : LaneId) : (s.endStep l).Punctual := by
  have hended : (s.setLane l { (s.lane l).noStep with position := (s.lane l).nextPosition }).Punctual :=
    h.setLane (Lane.onTime_of_stopped rfl rfl)
  unfold State.endStep; dsimp only; split
  · exact hended.complete l
  · exact hended.goOnAt l _

/-! ### Faults and comparisons -/

theorem recordFault (h : s.Punctual) (l : LaneId) (b : RecordBody) : (s.recordFault l b).Punctual :=
  ((h.takeRecord b).raiseLane .fault l _).setLane_sameTimes ⟨rfl, rfl, rfl, rfl⟩

theorem act {f : State → State} (h : s.Punctual) (l : LaneId) (m : Mismatch) (hf : (f s).Punctual) :
    (s.act l m f).Punctual := by
  unfold State.act; split
  · exact hf
  · exact h.haltLane l _ _
  · exact h.abortLane l _

theorem holdExpires (h : s.Punctual) (l : LaneId) (st : StepRecord) : (s.holdExpires l st).Punctual := by
  unfold State.holdExpires; dsimp only; split
  · exact (h.recordFault l _).act l _ ((h.recordFault l _).endStep l)
  · exact h.endStep l

/-- A lane begins or ends to check (R62). -/
theorem setChecking (h : s.Punctual) (l : LaneId) (b : Bool) :
    (s.setLane l { s.lane l with checking := b }).Punctual := h.setLane_sameTimes ⟨rfl, rfl, rfl, rfl⟩

/-- A fault in a step that checks, whatever GO_ON does (R63 to R67). -/
theorem faultInCheck {f : State → State} (h : s.Punctual) (l : LaneId) (b : RecordBody) (m : Mismatch)
    (hf : ∀ u : State, u.Punctual → (f u).Punctual) :
    (((s.setLane l { s.lane l with checking := false }).recordFault l b).act l m f).Punctual :=
  have hfault := (h.setChecking l false).recordFault l b
  hfault.act l m (hf _ hfault)

theorem limitExpires (h : s.Punctual) (l : LaneId) (st : StepRecord) : (s.limitExpires l st).Punctual :=
  h.faultInCheck l _ _ fun _ hu => hu.endStep l

theorem compareAt (h : s.Punctual) (l : LaneId) (st : StepRecord) (v : Lines) :
    (s.compareAt l st v).Punctual := by
  unfold State.compareAt; dsimp only
  split
  · split
    · exact h.setChecking l true
    · exact h.faultInCheck l _ _ fun _ hu => hu
  · split
    · exact h.endStep l
    · exact h.setChecking l true
  · exact h
  · exact h

/-- The opening comparison is made once and is then no longer to come (R53). -/
theorem setOpened (h : s.Punctual) (l : LaneId) : (s.setLane l { s.lane l with opened := true }).Punctual :=
  h.setLane ⟨(h.lanes l).1, fun _ _ _ _ hopened => absurd hopened (by simp)⟩

theorem resumeLane (h : s.Punctual) (l : LaneId) : (s.resumeLane l).Punctual := by
  have hrun : (s.setLane l { s.lane l with state := .running, resumePoint := .none }).Punctual :=
    h.setLane_sameTimes ⟨rfl, rfl, rfl, rfl⟩
  unfold State.resumeLane; dsimp only; split
  · exact hrun.beginStep l
  · exact hrun.beginStep l
  · exact hrun.complete l
  · exact hrun.afterHalt l

theorem askPause (h : s.Punctual) (l : LaneId) : (s.askPause l).Punctual := by
  unfold State.askPause; split
  · exact h.setLane_sameTimes ⟨rfl, rfl, rfl, rfl⟩
  · exact h

/-! ### Watches, change events and the guard (R23, R106, R168) -/

theorem laneAction (h : s.Punctual) (w : WatchId) (l : LaneId) (a : LaneAction) :
    (s.laneAction w l a).Punctual := by
  cases a with
  | start => exact h.startLane l _
  | pause => exact h.askPause l
  | abort => exact h.abortLane l _

theorem watchHit (h : s.Punctual) (w : WatchId) (d : WatchDef) (p v : Lines) :
    (s.watchHit w d p v).Punctual := by
  have hset {u : State} (hu : u.Punctual) (x : Watch) : (u.setWatch w x).Punctual :=
    hu.congr rfl rfl rfl rfl
  have hrecord {u : State} (hu : u.Punctual) : State.Punctual
      (if d.record then u.takeRecord (.watchHit w v (p ^^^ v)) else u) := by
    split
    · exact hu.takeRecord _
    · exact hu
  have hnotify {u : State} (hu : u.Punctual) (n : Nat) : State.Punctual
      (if d.notify then u.raise (.watchHit w) (.count n) else u) := by
    split
    · exact hu.raise _ _
    · exact hu
  have hact {u : State} (hu : u.Punctual) : State.Punctual
      (match d.laneAction with | some (l, a) => u.laneAction w l a | none => u) := by
    split
    · exact hu.laneAction _ _ _
    · exact hu
  exact hset (hact (hnotify (hrecord (hset h _)) _)) _

theorem evaluateWatch (h : s.Punctual) (p v : Lines) (w : WatchId) :
    (s.evaluateWatch p v w).Punctual := by
  unfold State.evaluateWatch
  split
  · split
    · exact h.watchHit _ _ _ _
    · exact h
  · exact h

theorem receiverTakes (h : s.Punctual) (p v : Lines) (r : Receiver) : (s.receiverTakes p v r).Punctual := by
  cases r with
  | watchUnit =>
    exact foldl (f := fun u w => u.evaluateWatch p v w) (fun _ w hu => hu.evaluateWatch p v w) _ h
  | lane l =>
    show (s.laneTakesChange v l).Punctual
    unfold State.laneTakesChange; split
    · exact h.compareAt l _ _
    · exact h

/-- The sampler takes this microsecond's sample, or has taken it (R22). -/
theorem takeSample (h : s.Punctual) (order : List Receiver) : (s.takeSample order).Punctual := by
  have hsampled (v : Lines) : State.Punctual { s with sampled := v, sampleAt := s.now } :=
    ⟨h.running, .inl rfl, h.lanes⟩
  unfold State.takeSample
  split
  · exact h
  · split
    · exact hsampled s.sampled
    · exact foldl (fun _ r hu => hu.receiverTakes _ _ r) _ (hsampled s.lineLevels)

theorem expireGuard (h : s.Punctual) : s.expireGuard.Punctual := by
  have hguard : (s.setGuard .expired).Punctual := h.congr rfl rfl rfl rfl
  exact ((foldl (f := fun u l => u.abortLane l .abortedGuard) (fun _ l hu => hu.abortLane l _) laneIds
    hguard).takeRecord _).raise _ _

end State.Punctual

end Sys2Proof.Machine

/-!
SUPPORT. The times of the lanes through requests, events, resets and the clock: outside a reset the station stays
punctual, in one its lanes stand still (`State.Stilled`), and time passes only when nothing is due.
-/

namespace Sys2Proof.Machine

namespace State.Punctual

variable {s : State}

/-! ### Requests -/

theorem startAct (h : s.Punctual) (l : LaneId) : (startAct l s).1.Punctual := by
  obtain ⟨harmed, hsrc, e⟩ | ⟨-, e⟩ | ⟨-, e⟩ := startAct_cases s l <;> rw [e]
  · exact State.startLane_taken (src := .request) harmed hsrc ▸ h.startLane l _
  · exact h
  · exact h.setLane_sameTimes ⟨rfl, rfl, rfl, rfl⟩

theorem pauseAct (h : s.Punctual) (l : LaneId) : (pauseAct l s).1.Punctual := by
  unfold Machine.pauseAct; split
  · exact h.askPause l
  all_goals exact h

theorem resumeAct (h : s.Punctual) (l : LaneId) : (resumeAct l s).1.Punctual := by
  unfold Machine.resumeAct; split
  iterate 2 exact h.resumeLane l
  · split
    · exact h.setLane_sameTimes ⟨rfl, rfl, rfl, rfl⟩
    · exact h
  all_goals exact h

theorem stopAct (h : s.Punctual) (l : LaneId) : (stopAct l s).1.Punctual := by
  unfold Machine.stopAct; split
  iterate 3 exact h.setLane_sameTimes ⟨rfl, rfl, rfl, rfl⟩
  all_goals exact h

theorem abortAct (h : s.Punctual) (l : LaneId) : (abortAct l s).1.Punctual := by
  unfold Machine.abortAct; split
  · exact h
  all_goals exact h.abortLane l _

/-- A lane-set request keeps the station punctual when its act at a lane does (R83). -/
theorem onLaneSet {act : LaneAct} (hact : ∀ l u, u.Punctual → (act l u).1.Punctual) (f : Frame)
    (h : s.Punctual) : (onLaneSet act f s).1.Punctual := by
  have hfold (ls : List LaneId) (acc : State × List Byte) (ha : acc.1.Punctual) :
      (ls.foldl (laneSetStep (byteAt f.payload 0) act) acc).1.Punctual := by
    induction ls generalizing acc with
    | nil => exact ha
    | cons l ls ih =>
      refine ih _ ?_
      unfold laneSetStep; split
      · exact hact l _ ha
      · exact ha
  unfold Machine.onLaneSet; dsimp only
  split
  · exact h
  · exact hfold laneIds (s, []) h

theorem onSetTime (h : s.Punctual) (f : Frame) : (onSetTime f s).1.Punctual := by
  have hfold (ls : List LaneId) (acc : State × Nat) (ha : acc.1.Punctual) :
      (ls.foldl judgeTrigger acc).1.Punctual := by
    induction ls generalizing acc with
    | nil => exact ha
    | cons l ls ih =>
      refine ih _ ?_
      unfold judgeTrigger; dsimp only; split
      · exact ha.startLane l _
      · exact ha
  have hjudged : (State.judgeTriggers
      { s with timestamp := wordAt f.payload 0 + s.elapsedSince f }).1.Punctual :=
    hfold laneIds _ (h.congr rfl rfl rfl rfl)
  unfold Machine.onSetTime
  dsimp only
  refine foldl (f := State.judgeHoldoff) (fun u w hu => ?_) watchIds hjudged
  unfold State.judgeHoldoff
  repeat' split
  all_goals exact hu.congr rfl rfl rfl rfl

theorem onArm (h : s.Punctual) (f : Frame) : (onArm f s).1.Punctual := by
  unfold Machine.onArm; dsimp only
  repeat' split
  iterate 6 exact h
  · exact setLane_sameTimes (s := s.raiseRefs _) (h.congr rfl rfl rfl rfl) ⟨rfl, rfl, rfl, rfl⟩

theorem onSetSegments (h : s.Punctual) (f : Frame) : (onSetSegments f s).1.Punctual := by
  unfold Machine.onSetSegments; dsimp only
  repeat' split
  iterate 4 exact h
  · exact h.setLane_sameTimes ⟨rfl, rfl, rfl, rfl⟩
  · exact h

theorem onSetLane (h : s.Punctual) (f : Frame) : (onSetLane f s).1.Punctual := by
  unfold Machine.onSetLane
  repeat' split
  iterate 3 exact h
  exact h.setLane_sameTimes ⟨rfl, rfl, rfl, rfl⟩

/-- CLEAR leaves every lane cleared (R173). -/
theorem cleared (h : s.Punctual) : s.cleared.Punctual :=
  ⟨h.running, h.sample, fun l => by
    rw [State.lane_of_replicate (s := s.cleared) rfl l]; exact Lane.onTime_of_stopped rfl rfl⟩

/-- Every request's handler keeps the station punctual. -/
theorem handler (h : s.Punctual) (r : Request) (f : Frame) : (r.handler f s).1.Punctual := by
  cases r with
  | identify | readTime | restart | readLines | watchStatus => exact h
  | setLink | setGuard | trimRing => exact h.congr rfl rfl rfl rfl
  | joinGroups => obtain ⟨g, e⟩ := onJoinGroups_state f s; exact h.congr_of_eq e rfl rfl rfl rfl
  | linkStatus => obtain ⟨k, e, -⟩ := onLinkStatus_state f s; exact h.congr_of_eq e rfl rfl rfl rfl
  | setTime => exact h.onSetTime f
  | clear => exact h.cleared
  | storeSteps => obtain ⟨x, e, -⟩ := onStoreSteps_rewrites f s; exact h.congr_of_eq e rfl rfl rfl rfl
  | eraseSteps => obtain ⟨x, e, -⟩ := onEraseSteps_rewrites f s; exact h.congr_of_eq e rfl rfl rfl rfl
  | readSteps => exact (onReadSteps_state f s).symm ▸ h
  | pageStatus => exact (onPageStatus_state f s).symm ▸ h
  | claimLines => obtain ⟨c, e⟩ := onClaimLines_state f s; exact h.congr_of_eq e rfl rfl rfl rfl
  | releaseLines => obtain ⟨c, e⟩ := onReleaseLines_state f s; exact h.congr_of_eq e rfl rfl rfl rfl
  | setSegments => exact h.onSetSegments f
  | readSegments => exact (onReadSegments_state f s).symm ▸ h
  | setLane => exact h.onSetLane f
  | arm => exact h.onArm f
  | start => exact h.onLaneSet (fun l _ hu => hu.startAct l) f
  | pause => exact h.onLaneSet (fun l _ hu => hu.pauseAct l) f
  | resume => exact h.onLaneSet (fun l _ hu => hu.resumeAct l) f
  | stop => exact h.onLaneSet (fun l _ hu => hu.stopAct l) f
  | abort => exact h.onLaneSet (fun l _ hu => hu.abortAct l) f
  | laneStatus => exact (onLaneStatus_state f s).symm ▸ h
  | setWatch => obtain ⟨ws, e⟩ := onSetWatch_state f s; exact h.congr_of_eq e rfl rfl rfl rfl
  | enableWatches => obtain ⟨ws, e⟩ := onEnableWatches_state f s; exact h.congr_of_eq e rfl rfl rfl rfl
  | setRing => obtain ⟨r, e⟩ := onSetRing_state f s; exact h.congr_of_eq e rfl rfl rfl rfl
  | readRing => exact (onReadRing_state f s).symm ▸ h
  | setNoticeMask => obtain ⟨n, e⟩ := onSetNoticeMask_state f s; exact h.congr_of_eq e rfl rfl rfl rfl
  | poll => obtain ⟨n, e, -⟩ := onPoll_state f s; exact h.congr_of_eq e rfl rfl rfl rfl

end State.Punctual

/-! ### Resets -/

/-- In a reset: every lane is IDLE and its times are stopped (R170). -/
structure State.Stilled (s : State) : Prop where
  resetting : s.resetting ≠ none
  idle : ∀ l, (s.lane l).state = .idle
  stopped : ∀ l, (s.lane l).timer = none ∧ (s.lane l).settleEnd = none

/-- A station whose lanes are on time: punctual outside a reset, still in one. -/
def State.Timely (s : State) : Prop := s.Punctual ∨ s.Stilled

/-- With its lanes in order, a station is timely when the two invariants of time hold. -/
theorem State.timely_of_ok {s : State} (hl : s.lanesOk) (hr : s.resetOk) (ht : s.timingOk) : s.Timely := by
  obtain ⟨hsample, hlanes⟩ := ht
  have hstep (l : LaneId) (h : (s.lane l).timer ≠ none ∨ (s.lane l).settleEnd ≠ none) :
      (s.lane l).state = .running := by
    obtain ⟨-, -, -, -, -, -, hflight⟩ := hl l
    exact (hflight (.inr (h.imp_right .inl))).1
  by_cases hs : s.resetting = none
  · refine .inl ⟨hs, hsample hs, fun l => ⟨(hlanes l).1, fun st e hst hopens hopened hend => ?_⟩⟩
    exact (hlanes l).2 st e (hstep l (.inr (by simp [hend]))) hst hopens hopened hend
  · refine .inr ⟨hs, hr hs, fun l => ?_⟩
    have hidle := hr hs l
    by_contra hc
    have := hstep l (by rwa [not_and_or] at hc)
    rw [hidle] at this; cases this

theorem State.Timely.resetOk {s : State} (h : s.Timely) : s.resetOk := by
  intro hs l
  rcases h with h | h
  · exact absurd h.running hs
  · exact h.idle l

theorem State.Timely.timingOk {s : State} (h : s.Timely) : s.timingOk := by
  rcases h with h | h
  · exact ⟨fun _ => h.sample, fun l => ⟨(h.lanes l).1, fun st e _ => (h.lanes l).2 st e⟩⟩
  · refine ⟨fun hs => absurd hs h.resetting, fun l => ?_⟩
    obtain ⟨htimer, hend⟩ := h.stopped l
    exact ⟨by simp [htimer], by simp [hend]⟩

theorem State.Stilled.congr {s t : State} (h : s.Stilled) (hl : t.lanes = s.lanes)
    (hr : t.resetting = s.resetting) : t.Stilled := by
  have e (l : LaneId) : t.lane l = s.lane l := by simp [State.lane, hl]
  exact ⟨by rw [hr]; exact h.resetting, fun l => by rw [e]; exact h.idle l, fun l => by rw [e]; exact h.stopped l⟩

namespace State.Timely

variable {s t : State}

theorem congr (h : s.Timely) (hl : t.lanes = s.lanes) (hr : t.resetting = s.resetting)
    (hn : t.now = s.now) (ha : t.sampleAt = s.sampleAt) : t.Timely :=
  h.imp (·.congr hl hr hn ha) (·.congr hl hr)

theorem setLink (h : s.Timely) (k : Link) : (s.setLink k).Timely := h.congr rfl rfl rfl rfl

/-- The beginning of a reset clears every lane (R170). -/
theorem beginReset (h : s.Timely) (c : ResetCause) : (s.beginReset c).Timely := by
  have hheld : (s.heldInReset c).Stilled := by
    have hcleared (l : LaneId) : (s.heldInReset c).lane l = Lane.cleared := State.lane_of_replicate rfl l
    exact ⟨nofun, fun l => by rw [hcleared]; rfl, fun l => by rw [hcleared]; exact ⟨rfl, rfl⟩⟩
  unfold State.beginReset
  split
  · exact .inr hheld
  · exact .inr hheld
  · exact h
  · exact h

/-- The end of a reset takes the first sample (R171). -/
theorem afterReset (s : State) (c : ResetCause) (adr : BitVec 5) (spd : BitVec 2) (o : Outside) :
    (s.afterReset c adr spd o).Timely := by
  refine .inl ⟨rfl, .inl rfl, fun l => ?_⟩
  rw [State.lane_of_replicate (s := s.afterReset c adr spd o) rfl l]
  exact Lane.onTime_of_stopped rfl rfl

/-- The transmitter lets go of the line, and the reset of a RESTART may begin (R154, R172). -/
theorem releaseLine (h : s.Timely) : s.releaseLine.Timely := by
  unfold State.releaseLine
  split
  · exact h
  · dsimp only
    split
    · exact (h.setLink _).beginReset _
    · exact h.setLink _

/-! ### Commands -/

/-- An event outside a reset; in a reset nothing moves (R170). -/
theorem outsideReset {f : State → State} (h : s.Timely) (hf : s.Punctual → (f s).Timely) :
    (s.outsideReset f).Timely := by
  rcases h with hp | hs
  · rw [State.outsideReset_none s f hp.running]; exact hf hp
  · rw [State.outsideReset_some s f hs.resetting]; exact .inr hs

theorem decoderStep (h : s.Timely) (r : Request) : (decoderStep r r.handler s).Timely := by
  rcases h with hp | hs
  · exact .inl ((decoderStep_decoded r r.handler s).keeps hp (fun _ _ hu => hu.congr rfl rfl rfl rfl)
      fun f _ hu => hu.handler r f)
  · have hsame : Machine.decoderStep r r.handler s = s := State.outsideReset_some s _ hs.resetting
    rw [hsame]; exact .inr hs

theorem receiver (h : s.Timely) (ht : ReceiverWork s t) : t.Timely := by
  rw [ht.frame]; exact h.congr rfl rfl rfl rfl

/-- The state that a command answers. -/
theorem of_next {u : State} (h : u.Timely)
    (ht : (.next u : Host.Outcome State Fault Refusal) = .next t) : t.Timely := by
  cases ht; exact h

/-- Every command leaves the lanes on time. -/
theorem exec {c : Instr} (h : s.Timely) (ht : exec c s = .next t) : t.Timely := by
  cases c using Instr.byRequest with
  | request r => rw [exec_command] at ht; exact (h.decoderStep r).of_next ht
  | badKind => obtain ⟨k, rfl, -⟩ := execBadKind_link ht; exact h.setLink k
  | powerReset => exact (h.beginReset _).of_next ht
  | resetPin => exact (h.beginReset _).of_next ht
  | fullResetEnd a d o =>
    refine of_next ?_ ht
    split
    · exact afterReset _ _ _ _ _
    · exact h
  | byteReceived b m => exact (h.outsideReset fun _ => h.receiver (s.receiveByte_work b m)).of_next ht
  | frameReceived b m =>
    refine (h.outsideReset fun _ => ?_).of_next ht
    split
    · exact h.receiver (s.receiveByte_work b m)
    · exact h
  | framingError m =>
    refine (h.outsideReset fun _ => ?_).of_next ht
    split
    · exact h.setLink _
    · exact h
  | gapTimeout =>
    refine (h.outsideReset fun _ => ?_).of_next ht
    split
    · exact h.setLink _
    · exact h
  | replyDelayExpiry =>
    refine (h.outsideReset fun _ => ?_).of_next ht
    repeat' split
    · exact h.setLink _
    all_goals exact h
  | replyEnd =>
    refine (h.outsideReset fun _ => ?_).of_next ht
    split
    · exact h.releaseLine
    · exact h
  | collision i b =>
    refine (h.outsideReset fun _ => ?_).of_next ht
    split
    · exact (h.setLink _).releaseLine
    · exact h
  | changeEvent o rs =>
    refine (h.outsideReset fun hp => .inl ?_).of_next ht
    have hoffered : State.Punctual { s with outside := o } := hp.congr rfl rfl rfl rfl
    exact hoffered.takeSample rs
  | openingComparison l =>
    refine (h.outsideReset fun hp => .inl ?_).of_next ht
    repeat' split
    · exact (hp.setOpened l).compareAt l _ _
    all_goals exact hp
  | holdExpiry l =>
    refine (h.outsideReset fun hp => .inl ?_).of_next ht
    repeat' split
    · exact hp.holdExpires l _
    all_goals exact hp
  | awaitTimeout l =>
    refine (h.outsideReset fun hp => .inl ?_).of_next ht
    repeat' split
    · exact hp.limitExpires l _
    all_goals exact hp
  | timeTrigger l =>
    refine (h.outsideReset fun hp => .inl ?_).of_next ht
    split
    · exact hp.startLane l _
    · exact hp
  | holdoffExpiry w =>
    refine (h.outsideReset fun hp => .inl ?_).of_next ht
    split
    · exact hp.congr rfl rfl rfl rfl
    · exact hp
  | guardExpiry =>
    refine (h.outsideReset fun hp => .inl ?_).of_next ht
    split
    · exact hp.expireGuard
    · exact hp

end State.Timely

/-! ### The clock -/

section

variable {s : State} {l : LaneId}

/-- With nothing due, the sample of this microsecond has been taken (R22). -/
theorem State.sampleAt_of_nothing_due (hs : s.resetting = none) (hdue : s.dueEvents = []) :
    s.sampleAt = s.now := by
  by_contra hc
  have hmem := (State.mem_dueEvents hs (c := .changeEvent s.outside (Config.freeOrder s.freeIx))).2
    (.inr (.inr (.inr (.inr (.inr (.inr (.inr (.inr ⟨rfl, decide_eq_true hc⟩))))))))
  rw [hdue] at hmem; cases hmem

/-- With nothing due, every step timer that runs ends later than now (R51). -/
theorem State.now_lt_timer_of_nothing_due (hs : s.resetting = none) (hdue : s.dueEvents = [])
    (hok : (s.lane l).ok) {t : Moment} (ht : (s.lane l).timer = some t) : s.now < t := by
  obtain ⟨-, -, -, -, -, -, hflight⟩ := hok
  obtain ⟨hrun, hcurrent⟩ := hflight (.inr (.inl (by simp [ht])))
  obtain ⟨st, hst⟩ := Option.ne_none_iff_exists'.1 hcurrent
  by_contra hlate
  have hout : (s.lane l).timerDue st.kind s.now = true :=
    Lane.timerDue_iff.2 ⟨st, t, hrun, hst, rfl, ht, Nat.not_lt.1 hlate⟩
  have hmem : Instr.holdExpiry l ∈ s.dueEvents ∨ Instr.awaitTimeout l ∈ s.dueEvents := by
    cases hkind : st.kind with
    | drive => rw [hkind] at hout; exact .inl ((State.mem_dueEvents hs).2 (.inl ⟨l, rfl, hout⟩))
    | await => rw [hkind] at hout; exact .inr ((State.mem_dueEvents hs).2 (.inr (.inl ⟨l, rfl, hout⟩)))
  simp [hdue] at hmem

/-- With nothing due, every settle window whose opening comparison is still to come lasts on (R53). -/
theorem State.now_le_settleEnd_of_nothing_due (hp : s.Punctual) (hdue : s.dueEvents = []) (hok : (s.lane l).ok)
    {st : StepRecord} {e : Moment} (hst : (s.lane l).current = some st) (hopens : st.check.opens = true)
    (hopened : (s.lane l).opened = false) (hend : (s.lane l).settleEnd = some e) : s.now ≤ e := by
  obtain ⟨-, -, -, -, -, -, hflight⟩ := hok
  obtain ⟨hrun, -⟩ := hflight (.inl (by simp [hst]))
  by_contra hpast
  have hopening : s.openingDue l = true :=
    State.openingDue_of_settled hrun hst hopens (State.sampleAt_of_nothing_due hp.running hdue) hopened hend
      (Nat.not_le.1 hpast) (hp.lanes l).1
  have hmem := (State.mem_dueEvents hp.running (c := .openingComparison l)).2
    (.inr (.inr (.inl ⟨l, rfl, hopening⟩)))
  rw [hdue] at hmem; cases hmem

/-- When nothing is due, one microsecond more passes no timer, no opening comparison and no sample. -/
theorem State.Timely.tick (h : s.Timely) (hl : s.lanesOk) (hdue : s.dueEvents = []) : s.tick.Timely := by
  rcases h with hp | hs
  · have hsampled := State.sampleAt_of_nothing_due hp.running hdue
    have htick : s.tick = { s with now := s.now + 1, timestamp := s.timestamp + 1 } := by
      unfold State.tick; rw [hp.running]
    rw [htick]
    refine .inl ⟨hp.running, .inr (congrArg (· + 1) hsampled), fun l =>
      ⟨fun t ht => ?_, fun st e hst ho hn he => ?_⟩⟩
    · exact State.now_lt_timer_of_nothing_due hp.running hdue (hl l) ht
    · exact Nat.succ_le_succ (State.now_le_settleEnd_of_nothing_due hp hdue (hl l) hst ho hn he)
  · unfold State.tick
    split
    · rename_i hc; exact absurd hc hs.resetting
    all_goals exact .inr (hs.congr rfl rfl)

/-- Every step leaves the lanes on time. -/
theorem State.Timely.step {t : State} (h : s.Timely) (hl : s.lanesOk) (ht : step s = .next t) : t.Timely := by
  have hrest (rest : List Instr) : State.Timely { s with pending := rest } := h.congr rfl rfl rfl rfl
  have hfree (n : Nat) : State.Timely { s with freeIx := n } := h.congr rfl rfl rfl rfl
  refine step_cases ht (fun c rest _ hc => (hrest rest).exec hc) (fun _ hi => ?_)
  unfold idle at hi
  split at hi
  · rename_i hdue; exact (h.tick hl hdue).of_next hi
  · exact (hfree _).exec hi
  · exact (hfree _).exec hi

end

/-- Settles O56: the times of the lanes through every command (`State.Timely.exec`), and time itself passing only
when nothing is due (`State.Timely.tick`). -/
theorem stepNeverPassesATimer : Obligations.StepNeverPassesATimer := by
  intro s t hl hr htiming ht
  have h := (State.timely_of_ok hl hr htiming).step hl ht
  exact ⟨h.resetOk, h.timingOk⟩

end Sys2Proof.Machine

/-!
SUPPORT. The lane-set requests in flight (05_lane_control_in_flight.md): the lanes' turns in lane order, then PAUSE
and STOP, which set flags alone, RESUME, whose lanes find what the ones before have left, and ABORT.
-/

namespace Sys2Proof.Machine

/-! ### The turns of a lane-set request (R83) -/

section

variable (set : Byte) (act : LaneAct)

/-- One lane's turn in a lane-set request, with its outcome byte: acted on when it is in the set, NOT_NAMED
otherwise. -/
def laneTurn (l : LaneId) (s : State) : State × Byte :=
  if set.getLsbD l.val then ((act l s).1, (act l s).2.code) else (s, LaneOutcome.notNamed.code)

theorem laneSetStep_eq (acc : State × List Byte) (l : LaneId) :
    laneSetStep set act acc l = ((laneTurn set act l acc.1).1, acc.2 ++ [(laneTurn set act l acc.1).2]) := by
  unfold laneSetStep laneTurn; split <;> rfl

/-- The state after the turns of the first `n` lanes. -/
def laneStates (s : State) (n : Nat) : State := (laneIds.take n).foldl (fun u l => (laneTurn set act l u).1) s

theorem laneStates_succ (s : State) (l : LaneId) :
    laneStates set act s (l.val + 1) = (laneTurn set act l (laneStates set act s l.val)).1 := by
  fin_cases l <;> rfl

end

/-- An empty lane set and one with a bit above 3 are refused with the status alone (R83). -/
theorem onLaneSet_refused {f : Frame} (act : LaneAct) (s : State)
    (h : byteAt f.payload 0 = 0 ∨ 16 ≤ (byteAt f.payload 0).toNat) :
    onLaneSet act f s = (s, statusAlone .badField) := if_pos h

/-- Any other lane set is acted out by the turns of the four lanes, each from the state before it (R83). -/
theorem onLaneSet_turns {f : Frame} (act : LaneAct) (s : State)
    (h0 : byteAt f.payload 0 ≠ 0) (h16 : (byteAt f.payload 0).toNat < 16) :
    onLaneSet act f s =
      (laneStates (byteAt f.payload 0) act s 4,
        okFields (byteAt f.payload 0 :: laneIds.map fun l =>
          (laneTurn (byteAt f.payload 0) act l (laneStates (byteAt f.payload 0) act s l.val)).2)) := by
  refine (if_neg (not_or.2 ⟨h0, Nat.not_le.2 h16⟩)).trans ?_
  simp only [laneIds, List.foldl_cons, List.foldl_nil, laneSetStep_eq]
  rfl

/-! ### Turns that each change their own lane alone -/

/-- Nothing but lane `l` differs. -/
def State.changesLane (t s : State) (l : LaneId) : Prop :=
  t = { s with lanes := t.lanes } ∧ t.keepsOtherLanes s l

theorem State.changesLane_refl (s : State) (l : LaneId) : s.changesLane s l := ⟨rfl, fun _ _ => rfl⟩

theorem State.setLane_changesLane (s : State) (l : LaneId) (x : Lane) : (s.setLane l x).changesLane s l :=
  ⟨rfl, fun _ hk => State.lane_setLane_ne _ _ (Ne.symm hk)⟩

section

variable {u : Nat → State}
  (h : ∀ l : LaneId, (u l.val).lane l = (u 0).lane l → (u (l.val + 1)).changesLane (u l.val) l)

include h

/-- Before its turn a lane is as it was at the beginning, and nothing but lanes has changed. -/
theorem turns_before {n : Nat} (hn : n ≤ 4) :
    u n = { u 0 with lanes := (u n).lanes } ∧ ∀ k : LaneId, n ≤ k.val → (u n).lane k = (u 0).lane k := by
  induction n with
  | zero => exact ⟨rfl, fun _ _ => rfl⟩
  | succ n ih =>
    obtain ⟨hframe, hlanes⟩ := ih (Nat.le_of_succ_le hn)
    obtain ⟨hturn, hothers⟩ := h ⟨n, hn⟩ (hlanes _ (Nat.le_refl n))
    refine ⟨?_, fun k hk => ?_⟩
    · generalize (u (n + 1)).lanes = xs at hturn ⊢
      rw [hturn, hframe]
    · have hne : k ≠ ⟨n, hn⟩ := fun e => Nat.not_succ_le_self n (by rwa [e] at hk)
      exact (hothers k hne).trans (hlanes k (Nat.le_of_succ_le hk))

/-- After its turn a lane stays as the turn has left it. -/
theorem turns_after {n : Nat} (hn : n ≤ 4) (k : LaneId) (hk : k.val < n) :
    (u n).lane k = (u (k.val + 1)).lane k := by
  induction n with
  | zero => cases hk
  | succ n ih =>
    rcases Nat.lt_succ_iff_lt_or_eq.1 hk with hlt | heq
    · obtain ⟨-, hlanes⟩ := turns_before h (Nat.le_of_succ_le hn)
      obtain ⟨-, hothers⟩ := h ⟨n, hn⟩ (hlanes _ (Nat.le_refl n))
      exact (hothers k fun e => Nat.ne_of_lt hlt (congrArg Fin.val e)).trans (ih (Nat.le_of_succ_le hn) hlt)
    · rw [heq]

end

/-! ### PAUSE and STOP (R85, R89) -/

section

variable {act : LaneAct} {update : Lane → Lane} {outcome : Lane → LaneOutcome}
  (hact : ∀ l s, act l s = (s.setLane l (update (s.lane l)), outcome (s.lane l)))

include hact

/-- A lane-set request whose act updates its lane alone, by that lane's own state: each lane of the set is
updated, every other stays, and so does everything but lanes. -/
theorem onLaneSet_updates {f : Frame} (h0 : byteAt f.payload 0 ≠ 0) (h16 : (byteAt f.payload 0).toNat < 16)
    (s : State) :
    ∃ t : State,
      onLaneSet act f s = (t, okFields (byteAt f.payload 0 :: laneIds.map fun l =>
          if (byteAt f.payload 0).getLsbD l.val then (outcome (s.lane l)).code
          else LaneOutcome.notNamed.code))
        ∧ t = { s with lanes := t.lanes }
        ∧ ∀ l, t.lane l = if (byteAt f.payload 0).getLsbD l.val then update (s.lane l) else s.lane l := by
  generalize hset : byteAt f.payload 0 = set
  have hturn (l : LaneId) (v : State) : laneTurn set act l v =
      if set.getLsbD l.val then (v.setLane l (update (v.lane l)), (outcome (v.lane l)).code)
      else (v, LaneOutcome.notNamed.code) := by
    unfold laneTurn; rw [hact]
  have hchange (l : LaneId) (_ : (laneStates set act s l.val).lane l = s.lane l) :
      (laneStates set act s (l.val + 1)).changesLane (laneStates set act s l.val) l := by
    rw [laneStates_succ, hturn]; split
    · exact State.setLane_changesLane _ _ _
    · exact State.changesLane_refl _ _
  have hbefore (l : LaneId) : (laneStates set act s l.val).lane l = s.lane l :=
    (turns_before hchange (Nat.le_of_lt l.isLt)).2 l (Nat.le_refl _)
  refine ⟨laneStates set act s 4, ?_, (turns_before hchange (Nat.le_refl 4)).1, fun l => ?_⟩
  · rw [onLaneSet_turns act s h0 h16, hset]
    refine congrArg (fun outcomes => (_, okFields (set :: outcomes))) (List.map_congr_left fun l _ => ?_)
    rw [hturn, hbefore]; split <;> rfl
  · rw [turns_after hchange (Nat.le_refl 4) l l.isLt, laneStates_succ, hturn, hbefore]
    split
    · exact State.lane_setLane_self _ _ _
    · exact hbefore l

/-- The execution of such a request, whichever way its frame is addressed. -/
theorem exec_laneUpdates {s : State} {f : Frame} {rest : List Frame} {r : Request} (he : s.executes r f rest)
    (hr : r ≠ .restart) (hhandler : r.handler = onLaneSet act) (h0 : byteAt f.payload 0 ≠ 0)
    (h16 : (byteAt f.payload 0).toNat < 16) :
    ∃ t : State,
      exec r.command s = .next (t.concluded f rest
          ([0x00, byteAt f.payload 0] ++ ([0, 1, 2, 3] : List LaneId).map fun l =>
            if (byteAt f.payload 0).getLsbD l.val then (outcome (s.lane l)).code
            else LaneOutcome.notNamed.code))
        ∧ t = { s with lanes := t.lanes }
        ∧ ∀ l, t.lane l = if (byteAt f.payload 0).getLsbD l.val then update (s.lane l) else s.lane l := by
  obtain ⟨t, hacted, hframe, hlane⟩ := onLaneSet_updates hact h0 h16 (s.popInbound rest)
  refine ⟨{ s with lanes := t.lanes }, exec_concluded he hr ?_, rfl, hlane⟩
  rw [hhandler, hacted]
  exact Prod.ext hframe rfl

end

/-- What PAUSE leaves at a lane of its set (R85). -/
def Lane.paused (x : Lane) : Lane := if x.state = .running then x.askPause else x

/-- The outcome of PAUSE at a lane (R85). -/
def Lane.pauseOutcome (x : Lane) : LaneOutcome := if x.state = .running then .pending else .noEffect

/-- What STOP leaves at a lane of its set (R89). -/
def Lane.stopped (x : Lane) : Lane := if x.state = .idle ∨ x.state = .armed then x else x.askStop

/-- The outcome of STOP at a lane (R89). -/
def Lane.stopOutcome (x : Lane) : LaneOutcome := if x.state = .idle ∨ x.state = .armed then .noEffect else .set

theorem pauseAct_eq (l : LaneId) (s : State) :
    pauseAct l s = (s.setLane l (s.lane l).paused, (s.lane l).pauseOutcome) := by
  cases h : (s.lane l).state <;> simp [pauseAct, State.askPause, Lane.paused, Lane.pauseOutcome, h]

theorem stopAct_eq (l : LaneId) (s : State) :
    stopAct l s = (s.setLane l (s.lane l).stopped, (s.lane l).stopOutcome) := by
  cases h : (s.lane l).state <;> simp [stopAct, Lane.stopped, Lane.stopOutcome, h]

/-- The five lane-set requests act lane by lane. -/
theorem laneSetRequest_handler {r : Request} (h : r ∈ [Request.start, .pause, .resume, .stop, .abort]) :
    ∃ act, r.handler = onLaneSet act := by
  simp only [List.mem_cons, List.not_mem_nil, or_false] at h
  obtain rfl | rfl | rfl | rfl | rfl := h <;> exact ⟨_, rfl⟩

/-- Settles O31: the refusal by `onLaneSet_refused`, PAUSE and STOP by `exec_laneUpdates`. -/
theorem laneSetsAndTheFlagsOfPauseAndStop : Obligations.LaneSetsAndTheFlagsOfPauseAndStop := by
  refine ⟨fun s f rest r hr he hset => ?_, fun s f rest h0 h16 => ⟨fun he => ?_, fun he => ?_⟩⟩
  · obtain ⟨act, hhandler⟩ := laneSetRequest_handler hr
    refine exec_concluded he (by rintro rfl; revert hr; decide) ?_
    rw [hhandler]; exact onLaneSet_refused act _ hset
  · obtain ⟨t, hexec, hframe, hlane⟩ := exec_laneUpdates pauseAct_eq he (by decide) rfl h0 h16
    refine ⟨t, _, hexec, hframe, fun l => ⟨fun hn => ?_, fun hn hx => ?_, fun hn hx => ?_⟩⟩
    all_goals change (byteAt f.payload 0).getLsbD l.val = _ at hn; rw [hlane, hn]
    · exact ⟨rfl, rfl⟩
    · simp [Lane.paused, Lane.pauseOutcome, Lane.askPause, LaneOutcome.code, hx]
    · simp [Lane.paused, Lane.pauseOutcome, LaneOutcome.code, hx]
  · obtain ⟨t, hexec, hframe, hlane⟩ := exec_laneUpdates stopAct_eq he (by decide) rfl h0 h16
    refine ⟨t, _, hexec, hframe, fun l => ⟨fun hn => ?_, fun hn hx => ?_, fun hn hx => ?_⟩⟩
    all_goals change (byteAt f.payload 0).getLsbD l.val = _ at hn; rw [hlane, hn]
    · exact ⟨rfl, rfl⟩
    · have hbusy : ¬ ((s.lane l).state = .idle ∨ (s.lane l).state = .armed) := by
        rcases hx with hx | hx | hx <;> simp [hx]
      simp [Lane.stopped, Lane.stopOutcome, Lane.askStop, LaneOutcome.code, hbusy]
    · simp [Lane.stopped, Lane.stopOutcome, LaneOutcome.code, hx]

/-! ### RESUME (R86 to R88) -/

theorem laneTurn_takesResume (set : Byte) (l : LaneId) (s : State) :
    (laneTurn set resumeAct l s).1.takesResume s l (set.getLsbD l.val) (laneTurn set resumeAct l s).2 := by
  unfold laneTurn
  cases set.getLsbD l.val with
  | true => exact resumeAct_takesResume s l
  | false => exact ⟨fun _ => ⟨rfl, rfl⟩, nofun, nofun, nofun, nofun⟩

section

variable {s : State} {f : Frame} {rest : List Frame} (he : s.executes .resume f rest)
  (h0 : byteAt f.payload 0 ≠ 0) (h16 : (byteAt f.payload 0).toNat < 16)

include he h0 h16

/-- RESUME as the turns of the four lanes, each finding what the one before has left. -/
theorem exec_resume :
    ∃ (u : Nat → State) (outcome : LaneId → Byte), u 0 = s.popInbound rest
      ∧ (∀ l : LaneId, (u (l.val + 1)).takesResume (u l.val) l
          ((byteAt f.payload 0).getLsbD l.val) (outcome l))
      ∧ exec .resume s = .next ((u 4).concluded f rest
          ([0x00, byteAt f.payload 0] ++ ([0, 1, 2, 3] : List LaneId).map outcome)) := by
  have hacted := onLaneSet_turns resumeAct (s.popInbound rest) h0 h16
  have hlink := (onLaneSet_work f (s.popInbound rest) fun l u => resumeAct_work u l).link
  rw [hacted] at hlink
  refine ⟨laneStates (byteAt f.payload 0) resumeAct (s.popInbound rest), _, rfl, fun l => ?_,
    congrArg Host.Outcome.next
      (decoderStep_executes he (by decide) hacted (congrArg Link.inbound hlink))⟩
  rw [laneStates_succ]
  exact laneTurn_takesResume _ l _

end

/-- A turn of RESUME changes its lane alone, where a lane taken back holds STEP. -/
theorem State.takesResume.changesLane {s t : State} {l : LaneId} {named : Bool} {outcome : Byte}
    (h : t.takesResume s l named outcome)
    (hstep : named = true → (s.lane l).state = .paused ∨ (s.lane l).state = .halted →
      (s.lane l).resumePoint = .step) :
    t.changesLane s l := by
  obtain ⟨hunnamed, hback, hcancel, hgoesOn, hstays⟩ := h
  have hresumes (hn : named = true) (hx : (s.lane l).state = .paused ∨ (s.lane l).state = .halted) :
      t.changesLane s l := by
    obtain ⟨⟨hresumed, -, -⟩, -⟩ := hback hn hx
    obtain ⟨hframe, hothers, -⟩ := hresumed (hstep hn hx)
    exact ⟨hframe, hothers⟩
  have hsame (e : t = s) : t.changesLane s l := by rw [e]; exact s.changesLane_refl l
  cases hn : named with
  | false => exact hsame (hunnamed hn).1
  | true =>
    cases hx : (s.lane l).state with
    | paused => exact hresumes hn (.inl hx)
    | halted => exact hresumes hn (.inr hx)
    | idle => exact hsame (hstays hn (.inl hx)).1
    | armed => exact hsame (hstays hn (.inr hx)).1
    | running =>
      cases hp : (s.lane l).pausePending with
      | false => exact hsame (hgoesOn hn hx hp).1
      | true => rw [(hcancel hn hx hp).1]; exact s.setLane_changesLane _ _

/-- The lane `y` is what RESUME makes of lane `l` of state `s`, in the set or not, where a lane taken back holds
STEP (R86 to R88). -/
def Lane.resumedByStep (y : Lane) (s : State) (l : LaneId) (named : Bool) (outcome : Byte) : Prop :=
  let x := s.lane l
  (named = false → y = x ∧ outcome = 0)
    ∧ (named = true → x.state = .paused ∨ x.state = .halted →
        outcome = 6 ∧ y.state = .running ∧ y.resumePoint = .none ∧ y.sameRun x
          ∧ y.pausePending = x.pausePending
          ∧ ∀ st, s.slot x.slotNumber = some st → y.begins st x.position s.now)
    ∧ (named = true → x.state = .running → x.pausePending = true →
        y = { x with pausePending := false } ∧ outcome = 7)
    ∧ (named = true → x.state = .running → x.pausePending = false → y = x ∧ outcome = 5)
    ∧ (named = true → x.state = .idle ∨ x.state = .armed → y = x ∧ outcome = 5)

/-- What a turn of RESUME leaves at its lane, told of a state `s` that agrees in this lane, the slots and the
moment with the state `v` that the turn has found. -/
theorem State.takesResume.lane_resumedByStep {s v t : State} {l : LaneId} {named : Bool} {outcome : Byte}
    (h : t.takesResume v l named outcome) (hlane : v.lane l = s.lane l) (hslot : v.slot = s.slot)
    (hnow : v.now = s.now)
    (hstep : named = true → (s.lane l).state = .paused ∨ (s.lane l).state = .halted →
      (s.lane l).resumePoint = .step) :
    (t.lane l).resumedByStep s l named outcome := by
  obtain ⟨hunnamed, hback, hcancel, hgoesOn, hstays⟩ := h
  rw [hlane] at hback hcancel hgoesOn hstays
  have hsame (e : t = v) : t.lane l = s.lane l := by rw [e, hlane]
  refine ⟨fun hn => (hunnamed hn).imp_left hsame, fun hn hx => ?_, fun hn hx hp => ?_,
    fun hn hx hp => (hgoesOn hn hx hp).imp_left hsame, fun hn hx => (hstays hn hx).imp_left hsame⟩
  · obtain ⟨⟨hresumed, -, -⟩, hout⟩ := hback hn hx
    rw [hlane, hslot, hnow] at hresumed
    obtain ⟨-, -, hlaneNow⟩ := hresumed (hstep hn hx)
    exact ⟨hout, hlaneNow⟩
  · obtain ⟨hturned, hout⟩ := hcancel hn hx hp
    exact ⟨by rw [hturned]; exact State.lane_setLane_self _ _ _, hout⟩

/-- Settles O33: the lanes in order by `exec_resume`; where they hold STEP, a lane's turn finds it as it was at the
beginning, by `turns_before`, and no later turn touches it, by `turns_after`. -/
theorem resumeGoesOnByTheResumePoint : Obligations.ResumeGoesOnByTheResumePoint := by
  refine ⟨fun s f rest he h0 h16 hstep => ?_, fun s f rest he h0 h16 => exec_resume he h0 h16⟩
  obtain ⟨u, outcome, hu, hturn, hexec⟩ := exec_resume he h0 h16
  have hlanes (k : LaneId) : (u 0).lane k = s.lane k := by rw [hu]; rfl
  have hchange (l : LaneId) (hl : (u l.val).lane l = (u 0).lane l) :
      (u (l.val + 1)).changesLane (u l.val) l := by
    refine (hturn l).changesLane ?_
    rw [hl, hlanes]; exact hstep l
  have hend := (turns_before hchange (Nat.le_refl 4)).1
  rw [hu] at hend
  have hpop : u 4 = State.popInbound { s with lanes := (u 4).lanes } rest := hend
  refine ⟨{ s with lanes := (u 4).lanes }, outcome, ?_, rfl, fun l => ?_⟩
  · rw [← State.popInbound_concluded, ← hpop]; exact hexec
  · obtain ⟨hframe, hbefore⟩ := turns_before hchange (Nat.le_of_lt l.isLt)
    have hlane : (u l.val).lane l = s.lane l := (hbefore l (Nat.le_refl _)).trans (hlanes l)
    have hslot : (u l.val).slot = s.slot := by rw [hframe, hu]; rfl
    have hnow : (u l.val).now = s.now := by rw [hframe, hu]; rfl
    have hafter : State.lane { s with lanes := (u 4).lanes } l = (u (l.val + 1)).lane l :=
      turns_after hchange (Nat.le_refl 4) l l.isLt
    rw [hafter]
    exact (hturn l).lane_resumedByStep hlane hslot hnow (hstep l)

/-! ### ABORT (R82, R90) -/

section

variable (named : LaneId → Bool) (result : Result)

/-- One lane's turn when every lane of a set is aborted (R82). -/
def abortTurn (l : LaneId) (s : State) : State := if named l then s.abortLane l result else s

/-- The lanes whose runs such turns end. -/
def abortsAt (l : LaneId) (x : Lane) : Bool := named l && decide (x.state ≠ .idle)

variable (s : State) (l : LaneId)

/-- All that such a turn can do. -/
theorem abortTurn_eq :
    abortTurn named result l s = if abortsAt named l (s.lane l) then s.endRun l result else s := by
  unfold abortTurn abortsAt
  cases named l with
  | false => rfl
  | true =>
    by_cases hx : (s.lane l).state = .idle
    · simp [s.abortLane_idle l result hx, hx]
    · simp [s.abortLane_busy l result hx, hx]

theorem abortTurn_work : LaneWork s (abortTurn named result l s) := by
  unfold abortTurn; split
  · exact s.abortLane_work l result
  · exact .refl s

theorem abortTurn_other (k : LaneId) (h : k ≠ l) : (abortTurn named result l s).lane k = s.lane k := by
  unfold abortTurn; split
  · exact s.abortLane_other result h
  · rfl

/-- A turn that ends the lane's run gives back its pages (R8). -/
theorem abortTurn_refCount {p : Nat} (hp : p < 128) :
    (abortTurn named result l s).refCount p =
      s.refCount p - (abortsAt named l (s.lane l) && touches (s.lane l).segments p).toNat := by
  rw [abortTurn_eq]
  cases abortsAt named l (s.lane l) with
  | false => rfl
  | true =>
    obtain ⟨-, -, -, -, -, hpages⟩ := s.endRun_endsRun l result
    refine (hpages p hp).trans ?_
    cases touches (s.lane l).segments p <;> rfl

/-- The turns of several lanes give back the pages of each lane whose run they end. -/
theorem abortTurns_refCount {p : Nat} (hp : p < 128) (base : State) {ls : List LaneId} (hn : ls.Nodup)
    (u : State) (hl : ∀ k ∈ ls, u.lane k = base.lane k) :
    (ls.foldl (fun u l => abortTurn named result l u) u).refCount p =
      u.refCount p - ls.countP fun l => abortsAt named l (base.lane l) && touches (base.lane l).segments p := by
  induction ls generalizing u with
  | nil => rfl
  | cons l ls ih =>
    obtain ⟨hnot, hn⟩ := List.nodup_cons.1 hn
    have hrest (k : LaneId) (hk : k ∈ ls) : (abortTurn named result l u).lane k = base.lane k :=
      (abortTurn_other named result u l k (by rintro rfl; exact hnot hk)).trans
        (hl k (List.mem_cons_of_mem _ hk))
    rw [List.foldl_cons, ih hn _ hrest, abortTurn_refCount named result u l hp, hl l (List.mem_cons_self ..),
      List.countP_cons, Nat.sub_sub, Nat.add_comm]
    cases abortsAt named l (base.lane l) && touches (base.lane l).segments p <;> rfl

/-- What the turns leave of lane `l` (R82). -/
def State.takesAbort (t s : State) (l : LaneId) : Prop :=
  (abortsAt named l (s.lane l) = false → t.lane l = s.lane l)
    ∧ (abortsAt named l (s.lane l) = true →
        (t.lane l).endedAs (s.lane l) result ∧ (t.lane l).faultCount = (s.lane l).faultCount)

theorem abortTurn_takesAbort : (abortTurn named result l s).takesAbort named result s l := by
  rw [abortTurn_eq]
  refine ⟨fun h => by rw [h]; rfl, fun h => ?_⟩
  obtain ⟨-, -, -, hended, hfaults, -⟩ := s.endRun_endsRun l result
  rw [h]; exact ⟨hended, hfaults⟩

/-- The turns of all lanes, lane 0 first: what they leave at each lane and of the page references, and their
reports in lane order, told of a state `r` that stands for `s` in what reports read. -/
theorem abortTurns_spec (r : State) (hlanes : r.lanes = s.lanes) (hstamp : r.timestamp = s.timestamp)
    (hsame : s.reportsAs r) :
    let t := laneIds.foldl (fun u l => abortTurn named result l u) s
    LaneWork s t
      ∧ (∀ p, p < 128 → t.refCount p = s.refCount p -
          countLanes fun l => abortsAt named l (s.lane l) && touches (s.lane l).segments p)
      ∧ t.reportsAs ((laneIds.filter fun l => abortsAt named l (s.lane l)).foldl
          (fun r l => r.endReports l result) r)
      ∧ ∀ l, t.takesAbort named result s l := by
  have hfold := lanes_foldl (abortTurn named result) (abortsAt named) (fun r l => r.endReports l result)
    (fun b t l => t.takesAbort named result b l) s
    (fun u l => abortTurn_work named result u l) (fun u l k hk => abortTurn_other named result u l k hk)
    (fun u v l hu hv hvl hul hrep hends => ?_) (fun u l hul hquiet => ?_) (fun u l => by simp) (fun u l => ?_)
    (fun u l hul _ _ => ?_) (fun t u l htu h => ?_) laneIds (by decide) s r rfl rfl rfl
    hstamp hlanes (fun _ _ => rfl) hsame
  · obtain ⟨hw, hrep, -, hafter⟩ := hfold
    exact ⟨hw, fun p hp => abortTurns_refCount named result hp s (by decide) s fun _ _ => rfl, hrep,
      fun l => hafter l (mem_laneIds l)⟩
  · obtain ⟨-, -, hended, -⟩ := u.endRun_endsRun l result
    have hreports := State.endReports_congr (l := l) result hrep (hu.trans hv.symm)
      (by rw [hul, hvl]) (by rw [hul, hvl]) (by rw [hul, hvl])
    rw [abortTurn_eq, hul, hends]
    exact ⟨hended.1.trans hreports.1, hended.2.trans hreports.2⟩
  · rw [abortTurn_eq, hul, hquiet]; exact ⟨rfl, rfl⟩
  · rw [u.endReports_frame]
  · have h := abortTurn_takesAbort named result u l
    unfold State.takesAbort at h ⊢
    rwa [hul] at h
  · unfold State.takesAbort at h ⊢
    rwa [← htu]

end

/-- The outcome of ABORT at a lane (R90). -/
def Lane.abortOutcome (x : Lane) : LaneOutcome := if x.state = .idle then .noEffect else .aborted

theorem abortAct_eq (l : LaneId) (s : State) :
    abortAct l s = (s.abortLane l .abortedRequest, (s.lane l).abortOutcome) := by
  cases h : (s.lane l).state <;> simp [abortAct, State.abortLane, Lane.abortOutcome, h]

/-- ABORT of a lane set is the turns that end the runs of its lanes. -/
theorem onLaneSet_abort {f : Frame} (h0 : byteAt f.payload 0 ≠ 0) (h16 : (byteAt f.payload 0).toNat < 16)
    (s : State) :
    onLaneSet abortAct f s =
      (laneIds.foldl
        (fun u l => abortTurn (fun l => (byteAt f.payload 0).getLsbD l.val) .abortedRequest l u) s,
        okFields (byteAt f.payload 0 :: laneIds.map fun l =>
          if (byteAt f.payload 0).getLsbD l.val then (s.lane l).abortOutcome.code
          else LaneOutcome.notNamed.code)) := by
  have hacted := onLaneSet_acted (act := abortAct) Lane.abortOutcome (fun u l => by rw [abortAct_eq])
    (fun u l k hk => by rw [abortAct_eq]; exact u.abortLane_other _ hk) h0 h16 s
  simp only [abortAct_eq] at hacted
  exact hacted

/-- Settles O34: the turns of the four lanes by `abortTurns_spec`. -/
theorem abortEndsTheRuns : Obligations.AbortEndsTheRuns := by
  intro s f rest he h0 h16 named ends
  obtain ⟨hw, hrefs, hrep, hlane⟩ :=
    abortTurns_spec named .abortedRequest (s.popInbound rest) s rfl rfl ⟨rfl, rfl⟩
  have hacted := onLaneSet_abort h0 h16 (s.popInbound rest)
  change _ = (laneIds.foldl (fun u l => abortTurn named .abortedRequest l u) (s.popInbound rest), _) at hacted
  generalize laneIds.foldl (fun u l => abortTurn named .abortedRequest l u) (s.popInbound rest) = u
    at hw hrefs hrep hlane hacted
  have hu : u = State.popInbound
      { s with refs := u.refs, lanes := u.lanes, ring := u.ring, notices := u.notices } rest := hw.frame
  refine ⟨{ s with refs := u.refs, lanes := u.lanes, ring := u.ring, notices := u.notices }, _,
    exec_concluded he (by decide) (hacted.trans (Prod.ext hu rfl)), rfl, hrep, hrefs, fun l => ?_⟩
  obtain ⟨hstays, hends⟩ := hlane l
  refine ⟨hstays, hends, ?_⟩
  change (if named l then (s.lane l).abortOutcome.code else LaneOutcome.notNamed.code) = _
  cases hn : named l with
  | false => rfl
  | true => by_cases hx : (s.lane l).state = .idle <;> simp [Lane.abortOutcome, LaneOutcome.code, ends, hn, hx]

end Sys2Proof.Machine

/-!
SUPPORT. A change event for the watch unit (06_watches.md): no act of a hit makes a lane check, so where no lane is
checking the watch unit alone acts on the event, whatever the order of the receivers.
-/

namespace Sys2Proof.Machine

/-! ### Lanes that are not checking (R62, R106) -/

section

variable (s : State) {k : LaneId}

/-- A start begins a step, or finds an EMPTY slot; either way the lane is not checking (R42, R50). -/
theorem State.startLane_checking (l : LaneId) (src : StartSource) (h : (s.lane k).checking = false) :
    ((s.startLane l src).lane k).checking = false := by
  unfold State.startLane
  split
  · by_cases hk : k = l
    · subst hk
      rw [State.takeStart_lane]
      split <;> rfl
    · rw [(s.takeStart_spec l src).2.1 k hk]; exact h
  · exact h

/-- The end of a run leaves no step in flight (R82). -/
theorem State.abortLane_checking (l : LaneId) (r : Result) (h : (s.lane k).checking = false) :
    ((s.abortLane l r).lane k).checking = false := by
  by_cases hk : k = l
  · subst hk
    by_cases hidle : (s.lane k).state = .idle
    · rw [s.abortLane_idle k r hidle]; exact h
    · rw [s.abortLane_busy k r hidle]
      obtain ⟨-, -, -, ⟨-, ⟨-, -, -, hchecking⟩, -⟩, -⟩ := s.endRun_endsRun k r
      exact hchecking
  · rw [s.abortLane_other r hk]; exact h

theorem State.askPause_checking (l : LaneId) (h : (s.lane k).checking = false) :
    ((s.askPause l).lane k).checking = false := by
  unfold State.askPause
  split
  · rw [State.lane_setLane]
    split
    · rename_i hk; subst hk; exact h
    · exact h
  · exact h

theorem State.laneAction_checking (w : WatchId) (l : LaneId) (a : LaneAction)
    (h : (s.lane k).checking = false) : ((s.laneAction w l a).lane k).checking = false := by
  cases a with
  | start => exact s.startLane_checking l _ h
  | pause => exact s.askPause_checking l h
  | abort => exact s.abortLane_checking l _ h

theorem State.watchHit_checking (w : WatchId) (d : WatchDef) (p v : Lines)
    (h : (s.lane k).checking = false) : ((s.watchHit w d p v).lane k).checking = false := by
  have hact (u : State) (hu : (u.lane k).checking = false) :
      ((match d.laneAction with | some (l, a) => u.laneAction w l a | none => u).lane k).checking
        = false := by
    split
    · exact u.laneAction_checking w _ _ hu
    · exact hu
  refine hact _ ?_
  split <;> split <;> simpa [State.lane] using h

theorem State.evaluateWatch_checking (p v : Lines) (w : WatchId) (h : (s.lane k).checking = false) :
    ((s.evaluateWatch p v w).lane k).checking = false := by
  unfold State.evaluateWatch
  split
  · split
    · exact s.watchHit_checking w _ p v h
    · exact h
  · exact h

theorem State.evaluateWatches_checking (p v : Lines) (h : (s.lane k).checking = false) :
    ((s.evaluateWatches p v).lane k).checking = false := by
  unfold State.evaluateWatches
  exact List.foldlRecOn (motive := fun u : State => (u.lane k).checking = false) watchIds _ h
    fun u hu w _ => u.evaluateWatch_checking p v w hu

end

/-! ### An event that reaches the watch unit alone -/

/-- A sample delivered with no checking lane is the watch unit's work (R23, R62). -/
theorem State.deliverSample_watchUnit (s : State) (v : Lines) (order : List Receiver)
    (hl : ∀ l, (s.lane l).checking = false) :
    s.deliverSample v order = State.evaluateWatches { s with sampled := v } s.sampled v := by
  obtain ⟨as, bs, hab⟩ := List.append_of_mem (mem_deliveryOrder order .watchUnit)
  have hn := deliveryOrder_nodup order
  rw [hab] at hn
  obtain ⟨-, hbs, hdisjoint⟩ := List.nodup_append.1 hn
  have ha : Receiver.watchUnit ∉ as := fun h => hdisjoint _ h _ (List.mem_cons_self ..) rfl
  have hlanes (t : State) (ht : ∀ l, (t.lane l).checking = false) (rs : List Receiver)
      (hr : Receiver.watchUnit ∉ rs) :
      rs.foldl (fun t r => t.receiverTakes s.sampled v r) t = t := by
    refine State.receivers_quiet _ _ _ _ fun r hm => ?_
    cases r with
    | watchUnit => exact absurd hm hr
    | lane l => exact State.laneTakesChange_quiet _ _ _ (ht l)
  unfold State.deliverSample
  rw [hab, List.foldl_append, List.foldl_cons, hlanes { s with sampled := v } hl as ha]
  exact hlanes (State.evaluateWatches { s with sampled := v } s.sampled v)
    (fun l => State.evaluateWatches_checking _ _ _ (hl l)) bs (List.nodup_cons.1 hbs).1

section

variable {s : State} {o : Outside} {v : Lines} (order : List Receiver) (h : s.changesTo o v)
  (hlane : ∀ l, (s.lane l).checking = false)

include h hlane

/-- A change event that no lane may act on (R23, R62). -/
theorem exec_changeEvent_watchUnit :
    exec (.changeEvent o order) s = .next ((s.withSample o v).evaluateWatches s.sampled v) :=
  (exec_changeEvent order h).trans <| congrArg Host.Outcome.next <|
    State.deliverSample_watchUnit { s with outside := o, sampleAt := s.now } v order hlane

/-- A change event that one watch alone may act on (R101, R102). -/
theorem exec_changeEvent_watch (w : WatchId) (hother : ∀ k, k ≠ w → (s.watch k).state ≠ .enabled) :
    exec (.changeEvent o order) s = .next ((s.withSample o v).evaluateWatch s.sampled v w) :=
  (exec_changeEvent_watchUnit order h hlane).trans <| congrArg Host.Outcome.next <|
    (s.withSample o v).evaluateWatches_one s.sampled v w hother

end

/-- Settles O47: the one enabled watch takes the event by `State.evaluateWatch_watchTakes`. -/
theorem watchHitActsInOrder : Obligations.WatchHitActsInOrder := by
  intro s o v order w d hchange hlane henabled hdefn hother
  obtain ⟨hhit, hquiet⟩ := (s.withSample o v).evaluateWatch_watchTakes s.sampled v w
  have hexec := exec_changeEvent_watch order hchange hlane w hother
  refine ⟨fun hno => ?_, fun hmet hholdoff => ⟨_, hexec, hhit d ⟨henabled, hdefn, hmet, hholdoff⟩⟩⟩
  rw [hexec, hquiet]
  rintro d' ⟨-, hd', hmet, hholdoff⟩
  obtain rfl : d = d' := Option.some.inj (hdefn.symm.trans hd')
  exact hno.elim (· hmet) (· hholdoff)

end Sys2Proof.Machine

/-!
SUPPORT. The requests to the watch unit (06_watches.md): ENABLE_WATCHES watch by watch, and SET_WATCH with its checks
in their order and the fields of the definition that it reads.
-/

namespace Sys2Proof.Machine

theorem exists_boolOf {b : Byte} (h : b.toNat ≤ 1) : ∃ v, boolOf b = some v :=
  Option.ne_none_iff_exists'.1 fun hc => (boolOf_eq_none b).1 hc h

/-! ### ENABLE_WATCHES (R110) -/

/-- ENABLE_WATCHES at a watch, in the set or not: what it leaves of the watch, and its outcome. -/
def Watch.switch (x : Watch) (named enable : Bool) : Watch × WatchOutcome :=
  if named then enableAct enable x else (x, .notNamed)

section

variable (x : Watch) (enable : Bool)

theorem Watch.switch_unnamed : x.switch false enable = (x, .notNamed) := rfl

theorem Watch.switch_undefined (h : x.state = .undefined) : x.switch true enable = (x, .undefined) := by
  simp [Watch.switch, enableAct, h]

variable (h : x.state ≠ .undefined)

include h

theorem Watch.switch_on : x.switch true true = ({ x with state := .enabled }, .enabled) := by
  obtain ⟨state, _, _, _⟩ := x
  cases state with
  | undefined => exact absurd rfl h
  | disabled | enabled | spent => rfl

theorem Watch.switch_off : x.switch true false = ({ x with state := .disabled }, .disabled) := by
  obtain ⟨state, _, _, _⟩ := x
  cases state with
  | undefined => exact absurd rfl h
  | disabled | enabled | spent => rfl

end

section

variable (set : Byte) (enable : Bool)

/-- One watch's turn changes that watch alone. -/
theorem enableStep_switch (s : State) (acc : List Byte) (w : WatchId) :
    ∃ t : State,
      enableStep set enable (s, acc) w =
          (t, acc ++ [((s.watch w).switch (set.getLsbD w.val) enable).2.code])
        ∧ t = { s with watches := t.watches }
        ∧ t.watch w = ((s.watch w).switch (set.getLsbD w.val) enable).1
        ∧ ∀ k, k ≠ w → t.watch k = s.watch k := by
  unfold enableStep
  cases set.getLsbD w.val with
  | true => exact ⟨s.setWatch w (enableAct enable (s.watch w)).1, rfl, rfl, State.watch_setWatch_self _ _ _,
      fun k hk => State.watch_setWatch_ne _ _ (Ne.symm hk)⟩
  | false => exact ⟨s, rfl, rfl, rfl, fun _ _ => rfl⟩

/-- The turns of several watches, each told of the state before the first. -/
theorem enableStep_foldl {ws : List WatchId} (hn : ws.Nodup) (s : State) (acc : List Byte) :
    ∃ t : State,
      ws.foldl (enableStep set enable) (s, acc) =
          (t, acc ++ ws.map fun w => ((s.watch w).switch (set.getLsbD w.val) enable).2.code)
        ∧ t = { s with watches := t.watches }
        ∧ (∀ w ∈ ws, t.watch w = ((s.watch w).switch (set.getLsbD w.val) enable).1)
        ∧ ∀ w, w ∉ ws → t.watch w = s.watch w := by
  induction ws generalizing s acc with
  | nil => exact ⟨s, by simp, rfl, by simp, fun _ _ => rfl⟩
  | cons w ws ih =>
    obtain ⟨hw, hn⟩ := List.nodup_cons.1 hn
    obtain ⟨u, hturn, huframe, hself, hothers⟩ := enableStep_switch set enable s acc w
    obtain ⟨t, hfold, hframe, hmem, hrest⟩ :=
      ih hn u (acc ++ [((s.watch w).switch (set.getLsbD w.val) enable).2.code])
    have hsame (k : WatchId) (hk : k ∈ ws) : u.watch k = s.watch k :=
      hothers k (by rintro rfl; exact hw hk)
    refine ⟨t, ?_, ?_, fun k hk => ?_, fun k hk => ?_⟩
    · have houtcomes := List.map_congr_left (l := ws) fun k hk =>
        congrArg (fun x : Watch => (x.switch (set.getLsbD k.val) enable).2.code) (hsame k hk)
      rw [List.foldl_cons, hturn, hfold, houtcomes, List.append_assoc]
      rfl
    · generalize t.watches = xs at hframe ⊢
      rw [hframe, huframe]
    · rcases List.mem_cons.1 hk with rfl | hk
      · rw [hrest k hw, hself]
      · rw [hmem k hk, hsame k hk]
    · obtain ⟨hne, hk⟩ := not_or.1 (mt List.mem_cons.2 hk)
      rw [hrest k hk, hothers k hne]

end

section

variable {s : State} {f : Frame}

/-- An empty set and an enable byte above 1 are refused with the status alone. -/
theorem onEnableWatches_refused (h : byteAt f.payload 0 = 0 ∨ 1 < (byteAt f.payload 1).toNat) :
    onEnableWatches f s = (s, statusAlone .badField) := by
  unfold onEnableWatches
  cases hb : boolOf (byteAt f.payload 1) with
  | none => rfl
  | some enable =>
    refine if_pos (h.resolve_right fun hlt => ?_)
    rw [(boolOf_eq_none _).2 (Nat.not_le.2 hlt)] at hb
    cases hb

/-- ENABLE_WATCHES of a set that is not empty, with an enable byte that is assigned. -/
theorem onEnableWatches_switches {enable : Bool} (h0 : byteAt f.payload 0 ≠ 0)
    (hb : boolOf (byteAt f.payload 1) = some enable) :
    ∃ t : State,
      onEnableWatches f s =
          (t, okFields (byteAt f.payload 0 :: watchIds.map fun w =>
            ((s.watch w).switch ((byteAt f.payload 0).getLsbD w.val) enable).2.code))
        ∧ t = { s with watches := t.watches }
        ∧ ∀ w, t.watch w = ((s.watch w).switch ((byteAt f.payload 0).getLsbD w.val) enable).1 := by
  obtain ⟨t, hfold, hframe, hmem, -⟩ :=
    enableStep_foldl (byteAt f.payload 0) enable (ws := watchIds) (by decide) s []
  refine ⟨t, ?_, hframe, fun w => hmem w (mem_watchIds w)⟩
  simp only [onEnableWatches, hb, if_neg h0, hfold, List.nil_append]

end

/-- Settles O36: the refusal, and the turn of each watch by `Watch.switch`. -/
theorem enableWatchesSwitches : Obligations.EnableWatchesSwitches := by
  intro s f rest he set enable
  refine ⟨fun h => exec_concluded he (by decide) (onEnableWatches_refused h), fun h0 h1 => ?_⟩
  obtain ⟨b, hb⟩ := exists_boolOf h1
  have hbit : b = true ↔ enable.toNat = 1 := boolOf_eq_some hb
  obtain ⟨t, hacted, hframe, hwatch⟩ := onEnableWatches_switches (s := s.popInbound rest) h0 hb
  refine ⟨{ s with watches := t.watches }, _,
    exec_concluded he (by decide) (hacted.trans (Prod.ext hframe rfl)), rfl, fun w => ?_⟩
  have turned {y : Watch × WatchOutcome} (h : (s.watch w).switch (set.getLsbD w.val) b = y) :
      State.watch { s with watches := t.watches } w = y.1
        ∧ ((s.watch w).switch (set.getLsbD w.val) b).2.code = y.2.code :=
    ⟨(hwatch w).trans (congrArg Prod.fst h), by rw [h]⟩
  refine ⟨fun hn => turned (y := (_, .notNamed)) ?_, fun hn hx => turned (y := (_, .undefined)) ?_,
    fun hn hx hon => turned (y := (_, .enabled)) ?_, fun hn hx hoff => turned (y := (_, .disabled)) ?_⟩
  · rw [hn]; exact (s.watch w).switch_unnamed b
  · rw [hn]; exact (s.watch w).switch_undefined b hx
  · rw [hn, hbit.2 (by rw [hon]; rfl)]; exact (s.watch w).switch_on hx
  · rw [hn, Bool.eq_false_iff.2 (mt hbit.1 (by rw [hoff]; decide))]; exact (s.watch w).switch_off hx

/-! ### The first check that fails -/

/-- Of checks made in order, each with its detail, the first that fails leads to what `P` says of its detail. -/
def FirstFailure (checks : List (Prop × Byte)) (P : Byte → Prop) : Prop :=
  ∀ before c after, checks = before ++ c :: after → (∀ x ∈ before, x.1) → ¬ c.1 → P c.2

section

variable {q : Prop} {n : Byte} {checks : List (Prop × Byte)} {P : Byte → Prop}

theorem FirstFailure.nil : FirstFailure [] P := fun before _ _ h => by simp at h

theorem FirstFailure.cons (hfails : ¬ q → P n) (hpasses : q → FirstFailure checks P) :
    FirstFailure ((q, n) :: checks) P := by
  rintro (_ | ⟨b, before⟩) c after h hbefore hc
  · cases h; exact hfails hc
  · cases h
    obtain ⟨hq, hbefore⟩ := List.forall_mem_cons.1 hbefore
    exact hpasses hq before c after rfl hbefore hc

end

/-! ### The codes of a definition (R178, FIGURE 7) -/

theorem WatchCondition.ofCode_eq_none (b : Byte) : WatchCondition.ofCode b = none ↔ ¬ b.toNat ≤ 2 := by
  unfold WatchCondition.ofCode
  repeat' split
  all_goals simp only [reduceCtorEq, false_iff, true_iff]; bv_omega

theorem WatchCondition.ofCode_eq_some {b : Byte} {c : WatchCondition} (h : WatchCondition.ofCode b = some c) :
    (c = .enter ↔ b.toNat = 0) ∧ (c = .leave ↔ b.toNat = 1) ∧ (c = .change ↔ b.toNat = 2) := by
  unfold WatchCondition.ofCode at h
  repeat' split at h
  all_goals cases h
  all_goals subst b; decide

/-- The code of a lane action (R178). -/
def LaneAction.code : LaneAction → Nat
  | .start => 0
  | .pause => 1
  | .abort => 2

theorem LaneAction.ofCode_eq_none (b : Byte) : LaneAction.ofCode b = none ↔ ¬ b.toNat ≤ 2 := by
  unfold LaneAction.ofCode
  repeat' split
  all_goals simp only [reduceCtorEq, false_iff, true_iff]; bv_omega

theorem LaneAction.ofCode_eq_some {b : Byte} {a : LaneAction} (h : LaneAction.ofCode b = some a) (k : LaneAction) :
    a = k ↔ b.toNat = k.code := by
  unfold LaneAction.ofCode at h
  repeat' split at h
  all_goals cases h
  all_goals subst b; cases k <;> decide

theorem exists_watchCondition {b : Byte} (h : b.toNat ≤ 2) : ∃ c, WatchCondition.ofCode b = some c :=
  Option.ne_none_iff_exists'.1 fun hc => (WatchCondition.ofCode_eq_none b).1 hc h

theorem exists_laneAction {b : Byte} (h : b.toNat ≤ 2) : ∃ a, LaneAction.ofCode b = some a :=
  Option.ne_none_iff_exists'.1 fun hc => (LaneAction.ofCode_eq_none b).1 hc h

theorem exists_laneOf {b : Byte} (h : b.toNat ≤ 3) : ∃ l, laneOf b = some l :=
  Option.ne_none_iff_exists'.1 fun hc => Nat.not_lt.2 h ((laneOf_eq_none b).1 hc)

/-! ### The LANE action of a definition (R109, details 5 and 6) -/

/-- A bit of a byte by division. -/
theorem getLsbD_eq_div (b : Byte) (i : Nat) : b.getLsbD i = (b.toNat / 2 ^ i % 2 == 1) := by
  rw [BitVec.getLsbD, Nat.testBit_eq_decide_div_mod_eq, beq_eq_decide]

section

variable {actions target action : Byte}

theorem parseLaneAction_without (h : actions.getLsbD 2 = false) : parseLaneAction actions target action = .ok none := by
  have hbit := getLsbD_eq_div actions 2
  rw [h] at hbit
  exact if_pos (Nat.mod_two_ne_one.1 (beq_eq_false_iff_ne.1 hbit.symm))

variable (hlane : actions.getLsbD 2 = true)

include hlane

theorem odd_of_laneBit : ¬ actions.toNat / 4 % 2 = 0 := by
  have hbit := getLsbD_eq_div actions 2
  rw [hlane] at hbit
  exact Nat.mod_two_ne_zero.2 (beq_iff_eq.1 hbit.symm)

theorem parseLaneAction_badTarget (h : laneOf target = none) : parseLaneAction actions target action = .error 5 := by
  simp only [parseLaneAction, if_neg (odd_of_laneBit hlane), h]

variable {l : LaneId} (hl : laneOf target = some l)

include hl

theorem parseLaneAction_badAction (h : LaneAction.ofCode action = none) :
    parseLaneAction actions target action = .error 6 := by
  simp only [parseLaneAction, if_neg (odd_of_laneBit hlane), hl, h]

theorem parseLaneAction_ok {a : LaneAction} (h : LaneAction.ofCode action = some a) :
    parseLaneAction actions target action = .ok (some (l, a)) := by
  simp only [parseLaneAction, if_neg (odd_of_laneBit hlane), hl, h]

end

section

variable {actions target action : Byte}

/-- Past its two checks, the LANE action names target lane and lane action exactly when LANE is among the actions. -/
theorem parseLaneAction_reads (htarget : actions.getLsbD 2 = true → target.toNat ≤ 3)
    (haction : actions.getLsbD 2 = true → action.toNat ≤ 2) :
    ∃ x, parseLaneAction actions target action = .ok x
      ∧ ∀ l a, x = some (l, a) ↔
          actions.getLsbD 2 = true ∧ target.toNat = l.val ∧ action.toNat = LaneAction.code a := by
  cases hlane : actions.getLsbD 2 with
  | false => exact ⟨none, parseLaneAction_without hlane, by simp⟩
  | true =>
    obtain ⟨l, hl⟩ := exists_laneOf (htarget hlane)
    obtain ⟨a, ha⟩ := exists_laneAction (haction hlane)
    refine ⟨some (l, a), parseLaneAction_ok hlane hl ha, fun k b => ?_⟩
    rw [Option.some.injEq, Prod.mk.injEq, LaneAction.ofCode_eq_some ha b, (laneOf_eq_some _ _).1 hl, Fin.ext_iff]
    simp

end

/-! ### The definition in a SET_WATCH payload, after the watch byte (R109, R180) -/

section

variable (p : List Byte) (i n : Nat)

theorem byteAt_drop_one : byteAt (p.drop 1) i = byteAt p (i + 1) := by
  simp [byteAt]

theorem fieldAt_drop_one : fieldAt (p.drop 1) i n = fieldAt p (i + 1) n := by
  simp [fieldAt]

theorem linesAt_drop_one : linesAt (p.drop 1) i = linesAt p (i + 1) := by
  rw [linesAt, linesAt, fieldAt_drop_one]

end

section

variable {p : List Byte}

theorem parseWatch_noMask (h : linesAt p 1 = 0) : parseWatch (p.drop 1) = .error 1 := by
  simp only [parseWatch, linesAt_drop_one, h, if_true]

variable (hmask : linesAt p 1 ≠ 0)

include hmask

theorem parseWatch_badCondition (h : WatchCondition.ofCode (byteAt p 11) = none) :
    parseWatch (p.drop 1) = .error 2 := by
  simp only [parseWatch, linesAt_drop_one, byteAt_drop_one, Nat.reduceAdd, if_neg hmask, h]

variable {condition : WatchCondition} (hcondition : WatchCondition.ofCode (byteAt p 11) = some condition)

include hcondition

theorem parseWatch_badMode (h : boolOf (byteAt p 12) = none) : parseWatch (p.drop 1) = .error 3 := by
  simp only [parseWatch, linesAt_drop_one, byteAt_drop_one, Nat.reduceAdd, if_neg hmask, hcondition, h]

variable {again : Bool} (hmode : boolOf (byteAt p 12) = some again)

include hmode

theorem parseWatch_badActions (h : 8 ≤ (byteAt p 15).toNat) : parseWatch (p.drop 1) = .error 4 := by
  simp only [parseWatch, linesAt_drop_one, byteAt_drop_one, Nat.reduceAdd, if_neg hmask, hcondition, hmode, if_pos h]

variable (hactions : ¬ 8 ≤ (byteAt p 15).toNat)

include hactions

theorem parseWatch_badLaneAction {n : Nat}
    (h : parseLaneAction (byteAt p 15) (byteAt p 16) (byteAt p 17) = .error n) :
    parseWatch (p.drop 1) = .error n := by
  simp only [parseWatch, linesAt_drop_one, byteAt_drop_one, Nat.reduceAdd, if_neg hmask, hcondition, hmode,
    if_neg hactions, h]

theorem parseWatch_ok {laneAction : Option (LaneId × LaneAction)}
    (h : parseLaneAction (byteAt p 15) (byteAt p 16) (byteAt p 17) = .ok laneAction) :
    parseWatch (p.drop 1) = .ok
      { mask := linesAt p 1, pattern := linesAt p 6, condition := condition, oneShot := !again,
        holdoff := BitVec.ofNat 16 (fieldAt p 13 2), record := (byteAt p 15).getLsbD 0,
        notify := (byteAt p 15).getLsbD 1, laneAction := laneAction } := by
  simp only [parseWatch, linesAt_drop_one, byteAt_drop_one, fieldAt_drop_one, Nat.reduceAdd, if_neg hmask, hcondition,
    hmode, if_neg hactions, h, getLsbD_eq_div, pow_zero, pow_one, Nat.div_one]

end

/-- The checks of SET_WATCH after that of the watch byte, with their details (R109). -/
def watchChecks (p : List Byte) : List (Prop × Byte) :=
  let lane := (byteAt p 15).getLsbD 2
  [(linesAt p 1 ≠ 0, 1), ((byteAt p 11).toNat ≤ 2, 2), ((byteAt p 12).toNat ≤ 1, 3), ((byteAt p 15).toNat < 8, 4),
   (lane = true → (byteAt p 16).toNat ≤ 3, 5), (lane = true → (byteAt p 17).toNat ≤ 2, 6)]

/-- The definition that a SET_WATCH payload holds, field by field (R180, FIGURE 7). -/
def WatchDef.standsIn (d : WatchDef) (p : List Byte) : Prop :=
  d.mask = linesAt p 1 ∧ d.pattern = linesAt p 6
    ∧ (d.condition = .enter ↔ (byteAt p 11).toNat = 0) ∧ (d.condition = .leave ↔ (byteAt p 11).toNat = 1)
    ∧ (d.condition = .change ↔ (byteAt p 11).toNat = 2) ∧ (d.oneShot = true ↔ (byteAt p 12).toNat = 0)
    ∧ d.holdoff.toNat = fieldAt p 13 2 ∧ d.record = (byteAt p 15).getLsbD 0 ∧ d.notify = (byteAt p 15).getLsbD 1
    ∧ ∀ l a, d.laneAction = some (l, a) ↔
        (byteAt p 15).getLsbD 2 = true ∧ (byteAt p 16).toNat = l.val ∧ (byteAt p 17).toNat = LaneAction.code a

section

variable {p : List Byte}

/-- The first check that fails gives the detail of the refusal. -/
theorem parseWatch_firstFailure :
    FirstFailure (watchChecks p) fun detail => ∃ n, parseWatch (p.drop 1) = .error n ∧ detail = byteOf n := by
  refine .cons (fun h1 => ⟨1, parseWatch_noMask (not_not.1 h1), rfl⟩) fun h1 => ?_
  refine .cons (fun h2 => ⟨2, parseWatch_badCondition h1 ((WatchCondition.ofCode_eq_none _).2 h2), rfl⟩) fun h2 => ?_
  obtain ⟨condition, hcondition⟩ := exists_watchCondition h2
  refine .cons (fun h3 => ⟨3, parseWatch_badMode h1 hcondition ((boolOf_eq_none _).2 h3), rfl⟩) fun h3 => ?_
  obtain ⟨again, hmode⟩ := exists_boolOf h3
  refine .cons (fun h4 => ⟨4, parseWatch_badActions h1 hcondition hmode (Nat.not_lt.1 h4), rfl⟩) fun h4 => ?_
  have hactions := Nat.not_le.2 h4
  refine .cons (fun h5 => ⟨5, parseWatch_badLaneAction h1 hcondition hmode hactions ?_, rfl⟩) fun h5 => ?_
  · obtain ⟨hlane, htarget⟩ := Classical.not_imp.1 h5
    exact parseLaneAction_badTarget hlane ((laneOf_eq_none _).2 (Nat.not_le.1 htarget))
  refine .cons (fun h6 => ⟨6, parseWatch_badLaneAction h1 hcondition hmode hactions ?_, rfl⟩) fun _ => .nil
  · obtain ⟨hlane, haction⟩ := Classical.not_imp.1 h6
    obtain ⟨l, hl⟩ := exists_laneOf (h5 hlane)
    exact parseLaneAction_badAction hlane hl ((LaneAction.ofCode_eq_none _).2 haction)

/-- Past all checks the payload's definition is read. -/
theorem parseWatch_reads (h : ∀ x ∈ watchChecks p, x.1) :
    ∃ d, parseWatch (p.drop 1) = .ok d ∧ d.standsIn p := by
  simp only [watchChecks, List.forall_mem_cons] at h
  obtain ⟨h1, h2, h3, h4, h5, h6, -⟩ := h
  obtain ⟨condition, hcondition⟩ := exists_watchCondition h2
  obtain ⟨again, hmode⟩ := exists_boolOf h3
  obtain ⟨laneAction, hread, hlaneAction⟩ := parseLaneAction_reads h5 h6
  obtain ⟨henter, hleave, hchange⟩ := WatchCondition.ofCode_eq_some hcondition
  have honeShot : (!again) = true ↔ (byteAt p 12).toNat = 0 := by
    rw [Bool.not_eq_true', ← Bool.not_eq_true, boolOf_eq_some hmode]; omega
  have hholdoff : (BitVec.ofNat 16 (fieldAt p 13 2)).toNat = fieldAt p 13 2 := Nat.mod_eq_of_lt (fieldAt_lt p 13 2)
  exact ⟨_, parseWatch_ok h1 hcondition hmode (Nat.not_le.2 h4) hread,
    rfl, rfl, henter, hleave, hchange, honeShot, hholdoff, rfl, rfl, hlaneAction⟩

end

/-! ### SET_WATCH, case by case (R109) -/

section

variable {s : State} {f : Frame} {w : WatchId}

theorem onSetWatch_noWatch (h : 7 < (byteAt f.payload 0).toNat) : onSetWatch f s = (s, detail1 .badField 0xFF) := by
  simp only [onSetWatch, (watchOf_eq_none _).2 h]

variable (hw : (byteAt f.payload 0).toNat = w.val)

include hw

theorem onSetWatch_refused {n : Nat} (h : parseWatch (f.payload.drop 1) = .error n) :
    onSetWatch f s = (s, detail1 .badField n) := by
  simp only [onSetWatch, (watchOf_eq_some _ _).2 hw, h]

theorem onSetWatch_defines {d : WatchDef} (h : parseWatch (f.payload.drop 1) = .ok d) :
    onSetWatch f s = (s.setWatch w (Watch.defined d), [0x00, byteAt f.payload 0]) := by
  have hbyte : byteOf w.val = byteAt f.payload 0 := by rw [← hw]; exact BitVec.ofNat_toNat _ _
  simp only [onSetWatch, (watchOf_eq_some _ _).2 hw, h, detail1, hbyte]
  rfl

end

/-- Settles O35: the checks by `parseWatch_firstFailure`, the new definition by `parseWatch_reads`. -/
theorem setWatchDefines : Obligations.SetWatchDefines := by
  intro s f rest he p b lane checks
  have answer {t : State} {q : List Byte} (ht : onSetWatch f (s.popInbound rest) = (t.popInbound rest, q)) :
      exec .setWatch s = .next (t.answered f rest false q) := exec_answered he rfl (by decide) ht
  refine ⟨fun h => answer (onSetWatch_noWatch h), fun w hw =>
    ⟨fun before c after hchecks hbefore hc => ?_, fun h => ?_⟩⟩
  · obtain ⟨n, hparse, hdetail⟩ := parseWatch_firstFailure (p := p) before c after hchecks hbefore hc
    rw [hdetail]
    exact answer (onSetWatch_refused (s := s.popInbound rest) hw hparse)
  · obtain ⟨d, hparse, hmask, hpattern, henter, hleave, hchange, honeShot, hholdoff, hrecord, hnotify,
      hlaneAction⟩ := parseWatch_reads (p := p) h
    refine ⟨d, hmask, hpattern, henter, hleave, hchange, honeShot, hholdoff, hrecord, hnotify, fun l a => ?_,
      answer (onSetWatch_defines (s := s.popInbound rest) hw hparse)⟩
    rw [hlaneAction]
    cases a <;> rfl

end Sys2Proof.Machine

/-!
SUPPORT. Ring and notice set through every command (R114, R128): each stays within its bounds, and a command takes
boundedly many serials of each (`KeepsReports`). The bounds come from what a command's work can change
(`LaneWork`, `WatchWork`), the serials from what it takes of them (`Takes`).
-/

namespace Sys2Proof.Machine

/-! ### Bounds of the notice set (R128) -/

/-- Every kind with every source that it may have (R129). -/
def NoticeKey.all : List NoticeKey :=
  [LaneNotice.done, .mark, .halted, .paused, .checkpointReached, .checkpointPassed, .fault].flatMap
      (fun k => laneIds.map (.lane k))
    ++ watchIds.map .watchHit ++ [.ringLevel, .ringLoss, .guardExpired, .stationRestarted]

theorem NoticeKey.mem_all (k : NoticeKey) : k ∈ NoticeKey.all := by
  cases k with
  | lane k l => cases k <;> simp [NoticeKey.all, mem_laneIds]
  | watchHit w => simp [NoticeKey.all, mem_watchIds]
  | ringLevel | ringLoss | guardExpired | stationRestarted => simp [NoticeKey.all]

/-- One entry for each kind and source makes at most 40 entries. -/
theorem NoticeSet.ok.length_le {n : NoticeSet} (h : n.ok) : n.entries.length ≤ 40 := by
  have hsub := List.subperm_of_subset h.1 fun k _ => NoticeKey.mem_all k
  simpa [NoticeKey.all, laneIds, watchIds] using hsub.length_le

/-- The entry that a raise leaves counts 1 to 255 (R130, R131). -/
theorem NoticeSet.entryFor_count (n : NoticeSet) (k : NoticeKey) (d : NoticeDetail) :
    1 ≤ (n.entryFor k d).count ∧ (n.entryFor k d).count ≤ 255 := by
  unfold NoticeSet.entryFor
  split
  · unfold saturate; dsimp only; split <;> omega
  · exact ⟨Nat.le_refl 1, Nat.le_of_ble_eq_true rfl⟩

theorem NoticeSet.ok.raise {n : NoticeSet} (h : n.ok) (k : NoticeKey) (d : NoticeDetail) : (n.raise k d).ok := by
  obtain ⟨hkeys, hentries⟩ := h
  refine ⟨n.raise_nodup k d hkeys, fun e he => ?_⟩
  rw [NoticeSet.raise_records]
  obtain hold | ⟨hrecords, rfl⟩ := NoticeSet.mem_raise he
  · exact hentries e hold
  · exact ⟨by rwa [NoticeSet.entryFor_key], n.entryFor_count k d⟩

/-- The entries that a new mask leaves are of the kinds it records (R134). -/
theorem NoticeSet.ok.withMask {n : NoticeSet} (h : n.ok) (mask : BitVec 16) : (n.withMask mask).ok := by
  obtain ⟨hkeys, hentries⟩ := h
  refine ⟨(List.filter_sublist.map NoticeEntry.key).nodup hkeys, fun e he => ?_⟩
  obtain ⟨hold, hrecorded⟩ := List.mem_filter.1 he
  exact ⟨hrecorded, (hentries e hold).2⟩

theorem NoticeSet.ok.acknowledge {n : NoticeSet} (h : n.ok) (a : Serial) : (n.acknowledge a).ok := by
  obtain ⟨hkeys, hentries⟩ := h
  exact ⟨(List.filter_sublist.map NoticeEntry.key).nodup hkeys,
    fun e he => hentries e (List.mem_filter.1 he).1⟩

/-- Listing entries changes nothing of them but the reported flag (R136). -/
theorem NoticeSet.list_map {α : Type} (n : NoticeSet) (f : NoticeEntry → α)
    (hf : ∀ e, f e.markReported = f e) : n.list.entries.map f = n.entries.map f := by
  have hmarked : f ∘ NoticeEntry.markReported = f := funext hf
  rw [NoticeSet.list, List.map_append, List.map_map, hmarked, ← List.map_append, List.take_append_drop]

theorem NoticeSet.ok.list {n : NoticeSet} (h : n.ok) : n.list.ok := by
  obtain ⟨hkeys, hentries⟩ := h
  refine ⟨by rwa [n.list_map NoticeEntry.key fun _ => rfl], fun e he => ?_⟩
  have hmem : (e.key, e.count) ∈ n.entries.map fun e => (e.key, e.count) :=
    n.list_map (fun e => (e.key, e.count)) (fun _ => rfl) ▸ List.mem_map_of_mem he
  obtain ⟨old, hold, hsame⟩ := List.mem_map.1 hmem
  obtain ⟨hkey, hcount⟩ := Prod.mk.inj hsame
  rw [← hkey, ← hcount]
  exact hentries old hold

/-! ### What a command does to ring and notice set -/

/-- From `s` to `t` ring and notice set stay within their bounds, and at most `k` serials are taken of each. -/
structure KeepsReports (k : Nat) (s t : State) : Prop where
  ring : s.ring.ok → t.ring.ok
  notices : s.notices.ok → t.notices.ok
  serials : Takes k s t

namespace KeepsReports

variable {s t u : State} {j k : Nat}

/-- Nothing of ring and notices changes. -/
theorem same (hr : t.ring = s.ring) (hn : t.notices = s.notices) : KeepsReports k s t :=
  ⟨fun h => hr ▸ h, fun h => hn ▸ h, (Takes.same hr hn).mono (Nat.zero_le k)⟩

theorem refl (s : State) : KeepsReports k s s := same rfl rfl

theorem same_of_eq (e : t = u) (hr : u.ring = s.ring) (hn : u.notices = s.notices) : KeepsReports k s t :=
  e ▸ same hr hn

theorem trans (h : KeepsReports j s t) (g : KeepsReports k t u) : KeepsReports (j + k) s u :=
  ⟨g.ring ∘ h.ring, g.notices ∘ h.notices, h.serials.trans g.serials⟩

theorem mono (h : KeepsReports j s t) (hjk : j ≤ k) : KeepsReports k s t :=
  ⟨h.ring, h.notices, h.serials.mono hjk⟩

/-- What the watches' work changes of ring and notice set, it does by taking records and raising notices. The work
may start from a state that differs in other blocks. -/
theorem of_watchWork (h : WatchWork u t) (ht : Takes k s t) (hr : u.ring = s.ring := by rfl)
    (hn : u.notices = s.notices := by rfl) : KeepsReports k s t where
  ring hs := by
    obtain ⟨hfill, hthreshold⟩ := hr ▸ hs
    exact ⟨h.fill hfill, h.threshold ▸ hthreshold⟩
  notices hs := h.notices NoticeSet.ok (fun _ k d hm => hm.raise k d) (hn ▸ hs)
  serials := ht

/-- The same of a lane's work. -/
theorem of_laneWork (h : LaneWork u t) (ht : Takes j s t) (hjk : j ≤ k) (hr : u.ring = s.ring := by rfl)
    (hn : u.notices = s.notices := by rfl) : KeepsReports k s t :=
  (of_watchWork h.watchWork ht hr hn).mono hjk

/-- Some records and entries stay, each with its serial, and no serial is taken. -/
theorem of_removed (hring : s.ring.ok → t.ring.ok) (hnotices : s.notices.ok → t.notices.ok)
    (hr : t.ring.nextSerial = s.ring.nextSerial) (hn : t.notices.nextSerial = s.notices.nextSerial)
    (hrecords : (t.ring.records.map CaptureRecord.serial).Sublist (s.ring.records.map CaptureRecord.serial))
    (hentries : (t.notices.entries.map NoticeEntry.serial).Sublist (s.notices.entries.map NoticeEntry.serial)) :
    KeepsReports k s t :=
  ⟨hring, hnotices, (Takes.removed hr hn hrecords hentries).mono (Nat.zero_le k)⟩

theorem of_receiverWork (h : ReceiverWork s t) : KeepsReports k s t :=
  same_of_eq h.frame rfl rfl

/-- Ring and notice set as a full reset leaves them, whatever stood in them (R127, R139). -/
theorem of_cleared (hr : t.ring = Ring.cleared) (hn : t.notices = NoticeSet.cleared) : KeepsReports k s t where
  ring _ := by rw [hr]; unfold Ring.ok Ring.cleared; decide
  notices _ := by rw [hn]; exact ⟨List.nodup_nil, nofun⟩
  serials _ _ _ := ⟨by rw [hr]; exact ⟨.nil, nofun⟩, by rw [hn]; exact ⟨.nil, nofun⟩, by rw [hr]; exact nofun,
    by rw [hn]; exact nofun⟩

theorem outsideReset {f : State → State} (h : KeepsReports k s (f s)) : KeepsReports k s (s.outsideReset f) := by
  unfold State.outsideReset
  split
  · exact h
  · exact refl s

/-- The state that a command answers. -/
theorem of_next (h : KeepsReports k s u) (ht : (.next u : Host.Outcome State Fault Refusal) = .next t) :
    KeepsReports k s t := by
  cases ht; exact h

end KeepsReports

/-! ### The serials that requests take (R83, R165) -/

/-- A run of acts on a state with what they gather, each of at most `k` serials. -/
theorem Takes.foldl_fst {α β : Type} {k : Nat} {f : State × β → α → State × β}
    (hf : ∀ acc a, Takes k acc.1 (f acc a).1) (xs : List α) (acc : State × β) :
    Takes (k * xs.length) acc.1 (xs.foldl f acc).1 := by
  induction xs generalizing acc with
  | nil => exact .refl acc.1
  | cons a as ih =>
    exact ((hf acc a).trans (ih _)).mono (by rw [List.length_cons, Nat.mul_succ, Nat.add_comm])

section

variable (s : State) (l : LaneId) (f : Frame)

/-- A lane-set request takes at most four times what its act takes at a lane. -/
theorem onLaneSet_takes {k : Nat} {act : LaneAct} (hact : ∀ l u, Takes k u (act l u).1) :
    Takes (k * 4) s (onLaneSet act f s).1 := by
  have hturn (set : Byte) (acc : State × List Byte) (l : LaneId) :
      Takes k acc.1 (laneSetStep set act acc l).1 := by
    unfold laneSetStep; split
    · exact hact l acc.1
    · exact (Takes.refl _).mono (Nat.zero_le k)
  unfold onLaneSet; dsimp only
  split
  · exact (Takes.refl s).mono (Nat.zero_le _)
  · exact Takes.foldl_fst (hturn _) laneIds (s, [])

theorem startAct_takes : Takes 9 s (startAct l s).1 := by
  obtain ⟨harmed, hsource, e⟩ | ⟨-, e⟩ | ⟨-, e⟩ := startAct_cases s l <;> rw [e]
  · exact (State.startLane_taken (src := .request) harmed hsource ▸ s.startLane_takes l _).mono (by decide)
  · exact (Takes.refl s).mono (by decide)
  · exact (s.setLane_takes _ _).mono (by decide)

theorem resumeAct_takes : Takes 9 s (resumeAct l s).1 := by
  unfold resumeAct; split
  iterate 2 exact s.resumeLane_takes l
  · split
    · exact (s.setLane_takes _ _).mono (by decide)
    · exact (Takes.refl s).mono (by decide)
  all_goals exact (Takes.refl s).mono (by decide)

theorem abortAct_takes : Takes 9 s (abortAct l s).1 := by
  rw [abortAct_eq]
  exact (s.abortLane_takes _ _).mono (by decide)

/-- The acts that only set flags take none. -/
theorem pauseAct_takes : Takes 9 s (pauseAct l s).1 := by
  rw [pauseAct_eq]
  exact (s.setLane_takes _ _).mono (by decide)

theorem stopAct_takes : Takes 9 s (stopAct l s).1 := by
  rw [stopAct_eq]
  exact (s.setLane_takes _ _).mono (by decide)

/-- SET_TIME takes serials where a time trigger fires (R165). -/
theorem onSetTime_takes : Takes 12 s (onSetTime f s).1 := by
  have htrigger (acc : State × Nat) (l : LaneId) : Takes 3 acc.1 (judgeTrigger acc l).1 := by
    unfold judgeTrigger; dsimp only; split
    · exact acc.1.startLane_takes l _
    · exact (Takes.refl _).mono (by decide)
  have hholdoff (u : State) (w : WatchId) : Takes 0 u (u.judgeHoldoff w) := by
    unfold State.judgeHoldoff
    repeat' split
    all_goals exact .same rfl rfl
  unfold onSetTime
  dsimp only
  generalize hloaded : ({ s with timestamp := wordAt f.payload 0 + s.elapsedSince f } : State) = loaded
  have hload : Takes 0 s loaded := hloaded ▸ .same rfl rfl
  have hjudged : Takes 12 loaded loaded.judgeTriggers.1 := Takes.foldl_fst htrigger laneIds (loaded, 0)
  exact ((hload.trans hjudged).trans (Takes.foldl _ hholdoff watchIds _)).mono (by decide)

/-! ### The requests that write ring or notice set -/

/-- SET_RING writes a threshold of 1 to 512, or nothing (R123). -/
theorem onSetRing_keepsReports : KeepsReports 36 s (onSetRing f s).1 := by
  unfold onSetRing; dsimp only
  split
  · exact .refl s
  · split
    · exact .refl s
    · rename_i policy _ hrange
      refine .of_removed (fun ⟨hfill, _⟩ => ⟨hfill, ?_⟩) id rfl rfl (.refl _) (.refl _)
      rw [not_or] at hrange
      dsimp only [State.setRing]
      omega

theorem onTrimRing_keepsReports : KeepsReports 36 s (onTrimRing f s).1 := by
  have hkept : (s.ring.trim (wordAt f.payload 0)).records.Sublist s.ring.records := List.dropWhile_sublist _
  exact .of_removed (fun ⟨hfill, hthreshold⟩ => ⟨hkept.length_le.trans hfill, hthreshold⟩) id rfl rfl
    (hkept.map _) (.refl _)

theorem onSetNoticeMask_keepsReports : KeepsReports 36 s (onSetNoticeMask f s).1 := by
  unfold onSetNoticeMask; dsimp only
  split
  · exact .refl s
  · exact .of_removed id (fun h => h.withMask _) rfl rfl (.refl _) (List.filter_sublist.map _)

/-- POLL removes what is acknowledged and lists the rest (R135, R136). -/
theorem onPoll_keepsReports : KeepsReports 36 s (onPoll f s).1 := by
  have hlisted (n : NoticeSet) (hok : s.notices.ok → n.ok) (hnext : n.nextSerial = s.notices.nextSerial)
      (hsub : n.entries.Sublist s.notices.entries) : KeepsReports 36 s (s.setNotices n.list) := by
    refine .of_removed id (fun h => (hok h).list) rfl hnext (.refl _) ?_
    exact n.list_map NoticeEntry.serial (fun _ => rfl) ▸ hsub.map _
  unfold onPoll
  split
  · exact .refl s
  · refine hlisted _ ?_ ?_ ?_
    all_goals split
    · exact fun h => h.acknowledge _
    · exact id
    · rfl
    · rfl
    · exact List.filter_sublist
    · exact .refl _

theorem onClear_keepsReports : KeepsReports 36 s (onClear f s).1 :=
  .of_removed (fun ⟨_, hthreshold⟩ => ⟨Nat.zero_le _, hthreshold⟩) (fun _ => ⟨List.nodup_nil, nofun⟩) rfl rfl
    (List.nil_sublist _) (List.nil_sublist _)

theorem onLaneSet_keepsReports {act : LaneAct} (hwork : ∀ l u, LaneWork u (act l u).1)
    (hact : ∀ l u, Takes 9 u (act l u).1) : KeepsReports 36 s (onLaneSet act f s).1 :=
  .of_laneWork (onLaneSet_work f s hwork) (onLaneSet_takes s f hact) (by decide)

theorem onSetTime_keepsReports : KeepsReports 36 s (onSetTime f s).1 := by
  have hserials := onSetTime_takes s f
  obtain ⟨stamp, u, ws, hwork, e⟩ := onSetTime_state f s
  rw [e] at hserials ⊢
  have hwatches : WatchWork u { u with watches := ws } := ⟨rfl, fun _ _ h => h, id, rfl, rfl⟩
  exact (KeepsReports.of_watchWork (hwork.watchWork.trans hwatches) hserials).mono (by decide)

/-- ARM does a lane's work without a report (R41). -/
theorem onArm_keepsReports : KeepsReports 36 s (onArm f s).1 := by
  unfold onArm; dsimp only
  repeat' split
  all_goals exact .same rfl rfl

/-- Every request's handler: four lanes that resume take the most serials. -/
theorem Request.handler_keepsReports (r : Request) : KeepsReports 36 s (r.handler f s).1 := by
  cases r with
  | identify | readTime | restart | readLines | watchStatus => exact .refl s
  | setLink | setGuard => exact .same rfl rfl
  | joinGroups => obtain ⟨g, e⟩ := onJoinGroups_state f s; exact .same_of_eq e rfl rfl
  | linkStatus => obtain ⟨k, e, -⟩ := onLinkStatus_state f s; exact .same_of_eq e rfl rfl
  | setTime => exact onSetTime_keepsReports s f
  | clear => exact onClear_keepsReports s f
  | storeSteps => obtain ⟨x, e, -⟩ := onStoreSteps_rewrites f s; exact .same_of_eq e rfl rfl
  | eraseSteps => obtain ⟨x, e, -⟩ := onEraseSteps_rewrites f s; exact .same_of_eq e rfl rfl
  | readSteps => exact .same_of_eq (onReadSteps_state f s) rfl rfl
  | pageStatus => exact .same_of_eq (onPageStatus_state f s) rfl rfl
  | claimLines => obtain ⟨c, e⟩ := onClaimLines_state f s; exact .same_of_eq e rfl rfl
  | releaseLines => obtain ⟨c, e⟩ := onReleaseLines_state f s; exact .same_of_eq e rfl rfl
  | setSegments => obtain ⟨xs, e⟩ := onSetSegments_state f s; exact .same_of_eq e rfl rfl
  | readSegments => exact .same_of_eq (onReadSegments_state f s) rfl rfl
  | setLane => obtain ⟨xs, e⟩ := onSetLane_state f s; exact .same_of_eq e rfl rfl
  | arm => exact onArm_keepsReports s f
  | start => exact onLaneSet_keepsReports s f (fun l u => startAct_work u l) fun l u => startAct_takes u l
  | pause => exact onLaneSet_keepsReports s f (fun l u => pauseAct_work u l) fun l u => pauseAct_takes u l
  | resume => exact onLaneSet_keepsReports s f (fun l u => resumeAct_work u l) fun l u => resumeAct_takes u l
  | stop => exact onLaneSet_keepsReports s f (fun l u => stopAct_work u l) fun l u => stopAct_takes u l
  | abort => exact onLaneSet_keepsReports s f (fun l u => abortAct_work u l) fun l u => abortAct_takes u l
  | laneStatus => exact .same_of_eq (onLaneStatus_state f s) rfl rfl
  | setWatch => obtain ⟨ws, e⟩ := onSetWatch_state f s; exact .same_of_eq e rfl rfl
  | enableWatches => obtain ⟨ws, e⟩ := onEnableWatches_state f s; exact .same_of_eq e rfl rfl
  | setRing => exact onSetRing_keepsReports s f
  | readRing => exact .same_of_eq (onReadRing_state f s) rfl rfl
  | trimRing => exact onTrimRing_keepsReports s f
  | setNoticeMask => exact onSetNoticeMask_keepsReports s f
  | poll => exact onPoll_keepsReports s f

end

/-! ### Events -/

section

variable {s t : State} {k : Nat}

theorem State.Decoded.keepsReports {h : Handler} (ht : s.Decoded h t) (hh : ∀ f u, KeepsReports k u (h f u).1) :
    KeepsReports k s t := by
  obtain ⟨u, link, rfl | ⟨f, rest, rfl⟩, rfl, -⟩ := ht
  · exact .same rfl rfl
  · have hlink (v : State) (x : Link) : KeepsReports 0 v (v.setLink x) := .same rfl rfl
    exact (((hlink s _).trans (hh f _)).trans (hlink _ link)).mono (Nat.zero_add k).le

theorem State.beginReset_keepsReports (c : ResetCause) : KeepsReports k s (s.beginReset c) := by
  unfold State.beginReset
  split
  iterate 2 exact .of_cleared rfl rfl
  all_goals exact .refl s

/-- The end of a reset raises STATION_RESTARTED into an empty set (R139, R171). -/
theorem State.afterReset_keepsReports (c : ResetCause) (adr : BitVec 5) (spd : BitVec 2) (o : Outside) :
    KeepsReports 1 s (s.afterReset c adr spd o) :=
  (KeepsReports.of_cleared (k := 0) rfl rfl).trans
    (.of_laneWork (State.raise_work _ _ _) (State.raise_takes _ _ _) (Nat.le_refl 1))

/-- The transmitter lets go of the line, and the reset of a RESTART may begin (R154, R172). -/
theorem State.releaseLine_keepsReports : KeepsReports k s s.releaseLine := by
  unfold State.releaseLine
  split
  · exact .refl s
  · have hlink (x : Link) : KeepsReports 0 s (s.setLink x) := .same rfl rfl
    dsimp only
    split
    · exact ((hlink _).trans (State.beginReset_keepsReports (k := k) _)).mono (Nat.zero_add k).le
    · exact (hlink _).mono (Nat.zero_le k)

/-- The sampler and the receivers of its sample (R22, R23). -/
theorem State.takeSample_keepsReports (order : List Receiver) : KeepsReports 240 s (s.takeSample order) := by
  have hserials := s.takeSample_takes order
  by_cases htaken : s.sampleAt = s.now
  · rw [s.takeSample_taken order htaken]; exact .refl s
  · by_cases hsame : s.lineLevels = s.sampled
    · rw [s.takeSample_same order htaken hsame]; exact .same rfl rfl
    · rw [s.takeSample_change order htaken hsame] at hserials ⊢
      exact .of_watchWork (State.deliverSample_work _ _ _) hserials

theorem State.expireGuard_keepsReports : KeepsReports 15 s s.expireGuard :=
  .of_laneWork s.expireGuard_work s.expireGuard_takes le_rfl

/-- Every command. A change event takes the most serials: five receivers at most 48 each. -/
theorem exec_keepsReports {c : Instr} (ht : exec c s = .next t) : KeepsReports 240 s t := by
  have hlink (x : Link) : KeepsReports 240 s (s.setLink x) := .same rfl rfl
  cases c using Instr.byRequest with
  | request r =>
    rw [exec_command] at ht
    exact (((decoderStep_decoded r r.handler s).keepsReports fun f u =>
      r.handler_keepsReports u f).mono (by decide)).of_next ht
  | badKind => obtain ⟨x, rfl, -⟩ := execBadKind_link ht; exact hlink x
  | powerReset => exact (State.beginReset_keepsReports _).of_next ht
  | resetPin => exact (State.beginReset_keepsReports _).of_next ht
  | fullResetEnd a d o =>
    refine KeepsReports.of_next ?_ ht
    split
    · exact (State.afterReset_keepsReports _ _ _ _).mono (by decide)
    · exact .refl s
  | byteReceived b m => exact (KeepsReports.of_receiverWork (s.receiveByte_work b m)).outsideReset.of_next ht
  | frameReceived b m =>
    refine (KeepsReports.outsideReset ?_).of_next ht
    split
    · exact .of_receiverWork (s.receiveByte_work b m)
    · exact .refl s
  | framingError m =>
    refine (KeepsReports.outsideReset ?_).of_next ht
    split
    · exact hlink _
    · exact .refl s
  | gapTimeout =>
    refine (KeepsReports.outsideReset ?_).of_next ht
    split
    · exact hlink _
    · exact .refl s
  | replyDelayExpiry =>
    refine (KeepsReports.outsideReset ?_).of_next ht
    repeat' split
    · exact hlink _
    all_goals exact .refl s
  | replyEnd =>
    refine (KeepsReports.outsideReset ?_).of_next ht
    split
    · exact State.releaseLine_keepsReports
    · exact .refl s
  | collision i b =>
    refine (KeepsReports.outsideReset ?_).of_next ht
    split
    · exact (hlink _).trans (k := 0) State.releaseLine_keepsReports
    · exact .refl s
  | changeEvent o rs =>
    refine (KeepsReports.outsideReset ?_).of_next ht
    have houtside : KeepsReports 0 s { s with outside := o } := .same rfl rfl
    exact (houtside.trans (State.takeSample_keepsReports rs)).mono (by decide)
  | openingComparison l =>
    refine (KeepsReports.outsideReset ?_).of_next ht
    repeat' split
    · exact .of_laneWork ((s.setLane_work l _).trans (State.compareAt_work _ l _ _))
        ((s.setLane_takes l _).trans (State.compareAt_takes _ l _ _)) (by decide)
    all_goals exact .refl s
  | holdExpiry l =>
    refine (KeepsReports.outsideReset ?_).of_next ht
    repeat' split
    · exact .of_laneWork (s.holdExpires_work l _) (s.holdExpires_takes l _) (by decide)
    all_goals exact .refl s
  | awaitTimeout l =>
    refine (KeepsReports.outsideReset ?_).of_next ht
    repeat' split
    · exact .of_laneWork (s.limitExpires_work l _) (s.limitExpires_takes l _) (by decide)
    all_goals exact .refl s
  | timeTrigger l =>
    refine (KeepsReports.outsideReset ?_).of_next ht
    split
    · exact .of_laneWork (s.startLane_work l _) (s.startLane_takes l _) (by decide)
    · exact .refl s
  | holdoffExpiry w =>
    refine (KeepsReports.outsideReset ?_).of_next ht
    split
    · exact .same rfl rfl
    · exact .refl s
  | guardExpiry =>
    refine (KeepsReports.outsideReset ?_).of_next ht
    split
    · exact State.expireGuard_keepsReports.mono (by decide)
    · exact .refl s

theorem State.tick_keepsReports : KeepsReports k s s.tick := by
  unfold State.tick
  split <;> exact .same rfl rfl

theorem step_keepsReports (ht : step s = .next t) : KeepsReports 240 s t := by
  have hrest (rest : List Instr) : KeepsReports 0 s { s with pending := rest } := .same rfl rfl
  have hfree (n : Nat) : KeepsReports 0 s { s with freeIx := n } := .same rfl rfl
  refine step_cases ht (fun c rest _ hc => ?_) (fun _ hi => ?_)
  · exact ((hrest rest).trans (exec_keepsReports hc)).mono (by decide)
  · unfold idle at hi
    split at hi
    · exact State.tick_keepsReports.of_next hi
    all_goals exact ((hfree _).trans (exec_keepsReports hi)).mono (by decide)

/-- ATTN in words (R133, R170). -/
theorem State.attn_iff : s.attn = true ↔ s.resetting = none ∧ s.notices.entries ≠ [] := by
  simp [State.attn]

end

/-- Settles O57: bounds and serials through every step by `step_keepsReports`. A step takes at most 240 serials of
each count, so serials within the window of 2^31 are still in order after it. -/
theorem stepKeepsRingAndNotices : Obligations.StepKeepsRingAndNotices := by
  intro s t hring hnotices ht
  have h := step_keepsReports ht
  exact ⟨h.ring hring, h.notices hnotices, (h.notices hnotices).length_le, State.attn_iff,
    h.serials.inOrder (by decide)⟩

end Sys2Proof.Machine

/-!
SUPPORT. The capture ring (07_capture_ring.md): the three ways in which it takes a record, SET_RING with its checks in
their order, and TRIM_RING.
-/

namespace Sys2Proof.Machine

/-! ### A record handed to the ring (R117 to R120) -/

section

variable (s : State) (body : RecordBody)

/-- Below 512 the record is stored, and RING_LEVEL is raised when the fill becomes the threshold (R118). -/
theorem State.takeRecord_stored (h : s.ring.records.length < 512) :
    s.takeRecord body =
      { s with
        ring := { s.ring with
          records := s.ring.records ++
            [{ serial := s.ring.nextSerial, stamp := s.timestamp, body := body }]
          nextSerial := s.ring.nextSerial + 1 }
        notices :=
          if s.ring.records.length + 1 = s.ring.threshold then
            s.notices.raise .ringLevel (.count (s.ring.records.length + 1))
          else s.notices } := by
  simp only [State.takeRecord, if_pos h, State.setRing_ring, List.length_append, List.length_singleton]
  split <;> rfl

/-- At 512 under KEEP_OLDEST the record is lost (R119). -/
theorem State.takeRecord_refused (h : 512 ≤ s.ring.records.length) (hp : s.ring.policy = .keepOldest) :
    s.takeRecord body =
      { s with
        ring := { s.ring with nextSerial := s.ring.nextSerial + 1 }
        notices := s.notices.raise .ringLoss (.serial s.ring.nextSerial) } := by
  simp only [State.takeRecord, if_neg (Nat.not_lt.2 h), hp]
  rfl

/-- At 512 under KEEP_NEWEST the oldest record is lost (R120). -/
theorem State.takeRecord_replacing (h : 512 ≤ s.ring.records.length) (hp : s.ring.policy = .keepNewest)
    {oldest : CaptureRecord} {others : List CaptureRecord} (hr : s.ring.records = oldest :: others) :
    s.takeRecord body =
      { s with
        ring := { s.ring with
          records := others ++ [{ serial := s.ring.nextSerial, stamp := s.timestamp, body := body }]
          nextSerial := s.ring.nextSerial + 1 }
        notices := s.notices.raise .ringLoss (.serial oldest.serial) } := by
  rw [hr] at h
  simp only [State.takeRecord, if_neg (Nat.not_lt.2 h), hp, hr]
  rfl

end

/-- Settles O40: the three ways of R118 to R120, one lemma each. -/
theorem ringTakesARecord : Obligations.RingTakesARecord :=
  fun s body => ⟨s.takeRecord_stored body, s.takeRecord_refused body,
    fun _ _ h hp hr => s.takeRecord_replacing body h hp hr⟩

/-! ### SET_RING (R123) -/

theorem RingPolicy.ofCode_eq_none {b : Byte} (h : 1 < b.toNat) : RingPolicy.ofCode b = none := by
  have h0 : b ≠ 0 := by rintro rfl; exact absurd h (by decide)
  have h1 : b ≠ 1 := by rintro rfl; exact absurd h (by decide)
  rw [RingPolicy.ofCode, if_neg h0, if_neg h1]

/-- An assigned policy byte names a policy whose code it is (R178). -/
theorem RingPolicy.ofCode_of_le {b : Byte} (h : b.toNat ≤ 1) :
    ∃ p : RingPolicy, RingPolicy.ofCode b = some p ∧ p = (if b = 0 then .keepOldest else .keepNewest)
      ∧ p.code = b := by
  have hb : b = 0 ∨ b = 1 := by bv_omega
  rcases hb with rfl | rfl
  · exact ⟨.keepOldest, rfl, rfl, rfl⟩
  · exact ⟨.keepNewest, rfl, rfl, rfl⟩

section

variable {s : State} {f : Frame}

theorem onSetRing_badPolicy (h : 1 < (byteAt f.payload 0).toNat) : onSetRing f s = (s, [0x03, 1]) := by
  simp only [onSetRing, RingPolicy.ofCode_eq_none h]
  rfl

variable {policy : RingPolicy} (hp : RingPolicy.ofCode (byteAt f.payload 0) = some policy)

include hp

theorem onSetRing_badThreshold (h : fieldAt f.payload 1 2 = 0 ∨ 512 < fieldAt f.payload 1 2) :
    onSetRing f s = (s, [0x03, 2]) := by
  simp only [onSetRing, hp, if_pos h]
  rfl

theorem onSetRing_replaced (h1 : 1 ≤ fieldAt f.payload 1 2) (h512 : fieldAt f.payload 1 2 ≤ 512) :
    onSetRing f s =
      (s.setRing { s.ring with policy := policy, threshold := fieldAt f.payload 1 2 },
       [0x00, 0x00, policy.code] ++ leBytes 2 (fieldAt f.payload 1 2) ++ leBytes 2 s.ring.records.length
         ++ wordBytes s.ring.nextSerial) := by
  have hrange : ¬ (fieldAt f.payload 1 2 = 0 ∨ 512 < fieldAt f.payload 1 2) := by omega
  simp only [onSetRing, hp, if_neg hrange]
  rfl

end

/-! ### TRIM_RING (R125) -/

/-- A trim stops at the first record after its serial. -/
theorem Ring.trim_eq {ring : Ring} {gone left : List CaptureRecord} {a : Serial} (hr : ring.records = gone ++ left)
    (hgone : ∀ r ∈ gone, atOrBefore r.serial a = true)
    (hleft : ∀ r, left.head? = some r → atOrBefore r.serial a = false) :
    ring.trim a = { ring with records := left } := by
  have hrecords : (ring.trim a).records = left :=
    Ring.readFrom_append (after := some a) hr (.inr ⟨a, rfl, hgone, hleft⟩)
  exact congrArg (fun records => { ring with records := records }) hrecords

theorem onTrimRing_trimmed {s : State} {f : Frame} {gone left : List CaptureRecord}
    (hr : s.ring.records = gone ++ left)
    (hgone : ∀ r ∈ gone, atOrBefore r.serial (wordAt f.payload 0) = true)
    (hleft : ∀ r, left.head? = some r → atOrBefore r.serial (wordAt f.payload 0) = false) :
    onTrimRing f s =
      (s.setRing { s.ring with records := left },
       [0x00] ++ leBytes 2 gone.length ++ leBytes 2 left.length ++ wordBytes s.ring.nextSerial) := by
  have hremoved : s.ring.records.length - left.length = gone.length := by
    rw [hr, List.length_append, Nat.add_sub_cancel]
  simp only [onTrimRing, Ring.trim_eq hr hgone hleft, hremoved]
  rfl

/-- Settles O37: SET_RING check by check, and TRIM_RING by `onTrimRing_trimmed`. -/
theorem setRingAndTrimRingAnswer : Obligations.SetRingAndTrimRingAnswer := by
  refine ⟨fun a b => decide_eq_true_iff, fun s f rest => ⟨fun he => ?_, fun he gone left hr hgone hleft => ?_⟩⟩
  · have answer {t : State} {q : List Byte} (ht : onSetRing f (s.popInbound rest) = (t.popInbound rest, q)) :
        exec .setRing s = .next (t.answered f rest false q) := exec_answered he rfl (by decide) ht
    refine ⟨fun h => answer (onSetRing_badPolicy h), fun hpolicy hrange => ?_, fun hpolicy h1 h512 => ?_⟩
    · obtain ⟨policy, hp, -⟩ := RingPolicy.ofCode_of_le hpolicy
      exact answer (onSetRing_badThreshold hp hrange)
    · obtain ⟨policy, hp, hnamed, hcode⟩ := RingPolicy.ofCode_of_le hpolicy
      rw [← hnamed]
      refine answer ((onSetRing_replaced hp h1 h512).trans ?_)
      rw [hcode]
      rfl
  · exact exec_answered he rfl (by decide)
      (onTrimRing_trimmed (s := s.popInbound rest) hr hgone hleft)

end Sys2Proof.Machine

/-!
SUPPORT. The notice set (08_notices_and_the_attention_line.md): how it takes a notice, SET_NOTICE_MASK, and POLL.
-/

namespace Sys2Proof.Machine

/-! ### A notice raised (R130 to R132) -/

theorem NoticeSet.records_iff {n : NoticeSet} {key : NoticeKey} :
    n.records key = true ↔ n.mask.getLsbD key.kindCode = true ∨ key = .stationRestarted := by
  simp only [NoticeSet.records, Bool.or_eq_true, decide_eq_true_eq]

section

variable {n : NoticeSet} {key : NoticeKey} {detail : NoticeDetail}

/-- The filter of a raise keeps entries of other keys. -/
theorem NoticeSet.filter_key_ne {entries : List NoticeEntry} (h : ∀ e ∈ entries, e.key ≠ key) :
    (entries.filter fun e => e.key != key) = entries :=
  List.filter_eq_self.2 fun e he => bne_iff_ne.2 (h e he)

/-- The search of a raise passes over entries of other keys. -/
theorem NoticeSet.find_key_ne {entries : List NoticeEntry} (h : ∀ e ∈ entries, e.key ≠ key) :
    (entries.find? fun e => e.key == key) = none :=
  List.find?_eq_none.2 fun e he => by simpa only [beq_iff_eq] using h e he

/-- A notice whose key has no entry makes a new one (R130). -/
theorem NoticeSet.raise_new (hr : n.records key = true) (h : ∀ e ∈ n.entries, e.key ≠ key) :
    n.raise key detail =
      { n with
        entries := n.entries ++
          [{ serial := n.nextSerial, key := key, count := 1, detail := detail, reported := false }]
        nextSerial := n.nextSerial + 1 } := by
  have hentry : n.entryFor key detail =
      { serial := n.nextSerial, key := key, count := 1, detail := detail, reported := false } := by
    simp only [NoticeSet.entryFor, NoticeSet.find_key_ne h]
  rw [NoticeSet.raise_of_records n key detail hr, NoticeSet.filter_key_ne h, hentry]

/-- A notice whose key has its one entry moves it to the newest end, renewed (R131). -/
theorem NoticeSet.raise_again (hr : n.records key = true) {before after : List NoticeEntry} {old : NoticeEntry}
    (hn : n.entries = before ++ old :: after) (hold : old.key = key)
    (hothers : ∀ e ∈ before ++ after, e.key ≠ key) :
    n.raise key detail =
      { n with
        entries := before ++ after ++
          [{ serial := n.nextSerial, key := key, count := saturate 255 old.count, detail := detail,
             reported := false }]
        nextSerial := n.nextSerial + 1 } := by
  obtain ⟨hbefore, hafter⟩ := List.forall_mem_append.1 hothers
  have hfound : (n.entries.find? fun e => e.key == key) = some old := by
    rw [hn, List.find?_append, NoticeSet.find_key_ne hbefore, Option.none_or,
      List.find?_cons_of_pos (p := fun e : NoticeEntry => e.key == key) (beq_iff_eq.2 hold)]
  have hentry : n.entryFor key detail =
      { serial := n.nextSerial, key := key, count := saturate 255 old.count, detail := detail,
        reported := false } := by
    simp only [NoticeSet.entryFor, hfound]
  have hleft : (n.entries.filter fun e => e.key != key) = before ++ after := by
    rw [hn, List.filter_append,
      List.filter_cons_of_neg (p := fun e : NoticeEntry => e.key != key) (fun h => bne_iff_ne.1 h hold),
      NoticeSet.filter_key_ne hbefore, NoticeSet.filter_key_ne hafter]
  rw [NoticeSet.raise_of_records n key detail hr, hleft, hentry]

end

/-- Settles O41: a masked kind, a key without entry, and a key with its one entry. -/
theorem noticeSetTakesANotice : Obligations.NoticeSetTakesANotice := by
  intro n key detail
  refine ⟨fun hbit hkey => ?_, fun h => ⟨NoticeSet.raise_new (NoticeSet.records_iff.2 h),
    fun _ _ _ hn hold hothers => NoticeSet.raise_again (NoticeSet.records_iff.2 h) hn hold hothers⟩⟩
  have hmasked : n.records key = false := by
    rw [← Bool.not_eq_true, NoticeSet.records_iff, hbit]
    exact not_or.2 ⟨Bool.false_ne_true, hkey⟩
  exact n.raise_of_masked key detail hmasked

/-! ### ATTN (R133) -/

theorem State.attn_eq_false_of_no_entries {t : State} (h : t.notices.entries = []) : t.attn = false := by
  rw [← Bool.not_eq_true, State.attn_iff]
  exact fun ⟨_, hne⟩ => hne h

/-! ### SET_NOTICE_MASK (R134) -/

/-- Under a mask that has STATION_RESTARTED, the kinds recorded are those of the mask. -/
theorem NoticeSet.records_of_restarted_enabled {n : NoticeSet} (h : n.mask.getLsbD 11 = true) (key : NoticeKey) :
    n.records key = n.mask.getLsbD key.kindCode := by
  rw [Bool.eq_iff_iff, NoticeSet.records_iff, or_iff_left_iff_imp]
  rintro rfl
  exact h

/-- The set under a new mask, field by field. -/
theorem NoticeSet.withMask_eq (n : NoticeSet) (asked : BitVec 16) :
    n.withMask asked =
      { n with
        mask := asked ||| 0x0800#16
        entries := n.entries.filter fun e => (asked ||| 0x0800#16).getLsbD e.key.kindCode } := by
  have hrestarted : (asked ||| 0x0800#16).getLsbD 11 = true := by
    rw [BitVec.getLsbD_or, Bool.or_eq_true]
    exact .inr (by decide)
  have hrecords := NoticeSet.records_of_restarted_enabled (n := { n with mask := asked ||| 0x0800#16 }) hrestarted
  simp only [NoticeSet.withMask, hrecords]

section

variable {s : State} {f : Frame}

theorem onSetNoticeMask_refused (h : 4096 ≤ fieldAt f.payload 0 2) : onSetNoticeMask f s = (s, [0x03]) := by
  simp only [onSetNoticeMask, if_pos h]
  rfl

theorem onSetNoticeMask_replaced (h : fieldAt f.payload 0 2 < 4096) {n : NoticeSet}
    (hn : s.notices.withMask (BitVec.ofNat 16 (fieldAt f.payload 0 2)) = n) :
    onSetNoticeMask f s =
      (s.setNotices n,
       [0x00, byteOf (s.notices.entries.length - n.entries.length)] ++ leBytes 2 n.mask.toNat) := by
  simp only [onSetNoticeMask, if_neg (Nat.not_le.2 h), hn]
  rfl

end

/-- Settles O38: the refusal and the replacement, each by the equation of the handler. -/
theorem setNoticeMaskRemovesDisabledKinds : Obligations.SetNoticeMaskRemovesDisabledKinds := by
  intro s f rest he
  refine ⟨fun h => ?_, fun h => ⟨?_, fun hkept => State.attn_eq_false_of_no_entries hkept⟩⟩
  · exact exec_answered he rfl (by decide) (onSetNoticeMask_refused h)
  · exact exec_answered he rfl (by decide)
      (onSetNoticeMask_replaced (s := s.popInbound rest) h (NoticeSet.withMask_eq _ _))

/-! ### POLL (R135, R136) -/

/-- The entries that a POLL with a valid byte and a serial leaves (R135). -/
def NoticeSet.unacknowledged (n : NoticeSet) (valid : Byte) (a : Serial) : List NoticeEntry :=
  n.entries.filter fun e => !(valid == 1 && e.reported && atOrBefore e.serial a)

/-- What POLL removes before it lists, for a valid byte that it takes. -/
theorem NoticeSet.unacknowledged_eq (n : NoticeSet) {valid : Byte} {v : Bool} (hv : boolOf valid = some v)
    (a : Serial) :
    (if v then n.acknowledge a else n) = { n with entries := n.unacknowledged valid a } := by
  have hbit : (valid == 1) = v := by
    rw [Bool.eq_iff_iff, boolOf_eq_some hv, beq_iff_eq, ← BitVec.toNat_inj]
    rfl
  rw [NoticeSet.unacknowledged, hbit]
  cases v with
  | true => simp [NoticeSet.acknowledge]
  | false => simp

section

variable {s : State} {f : Frame}

theorem onPoll_refused (h : 1 < (byteAt f.payload 4).toNat) : onPoll f s = (s, [0x03]) := by
  simp only [onPoll, (boolOf_eq_none _).2 (Nat.not_le.2 h)]
  rfl

theorem onPoll_listed (h : (byteAt f.payload 4).toNat ≤ 1) {kept : List NoticeEntry}
    (hkept : s.notices.unacknowledged (byteAt f.payload 4) (wordAt f.payload 0) = kept) :
    onPoll f s =
      (s.setNotices { s.notices with
         entries := (kept.take 12).map NoticeEntry.markReported ++ kept.drop 12 },
       [0x00, byteOf (s.notices.entries.length - kept.length), byteOf kept.length, byteOf (min 12 kept.length),
         flagByte (decide (12 < kept.length))] ++ (kept.take 12).flatMap noticeBytes) := by
  obtain ⟨v, hv⟩ := exists_boolOf h
  simp only [onPoll, hv, NoticeSet.unacknowledged_eq _ hv, hkept, pollFields, List.length_take]
  rfl

end

/-- Settles O39: the refusal and the listing, each by the equation of the handler. -/
theorem pollRemovesThenLists : Obligations.PollRemovesThenLists := by
  intro s f rest he
  refine ⟨fun h => ?_, fun h => ⟨?_, fun hkept => State.attn_eq_false_of_no_entries ?_⟩⟩
  · exact exec_answered he rfl (by decide) (onPoll_refused h)
  · exact exec_answered he rfl (by decide) (onPoll_listed (s := s.popInbound rest) h rfl)
  · simp only [hkept, List.take_nil, List.drop_nil, List.map_nil, List.append_nil]

end Sys2Proof.Machine

/-!
SUPPORT. The link blocks in order (`Link.ok`): through every update that receiver, decoder and transmitter make of
them, through every request, and so through every command and step (R141, R143, R146, R153, R159).
-/

namespace Sys2Proof.Machine

/-! ### The updates of the link blocks -/

theorem saturate_le (top n : Nat) : saturate top n ≤ top := by
  unfold saturate
  split <;> omega

section

variable {k : Link}

theorem Link.assemblyOk_nil (h : k.assembly = []) : k.assemblyOk := .inl h

/-- Fewer than four bytes from a SYNC on are less than a frame. -/
theorem Link.assemblyOk_short {b : RxByte} {rest : List RxByte} (hk : k.assembly = b :: rest)
    (hb : b.value = 0xC3) (hshort : rest.length < 3) : k.assemblyOk := by
  refine .inr ⟨by simp [hk, hb], fun hlong => ?_⟩
  rw [hk, List.length_cons] at hlong
  omega

/-- LEN is the byte after SYNC, DEST and SRC. -/
theorem Link.lenByte_eq {b len : RxByte} {rest : List RxByte} (hk : k.assembly = b :: rest)
    (hlen : rest[2]? = some len) : k.lenByte = len.value.toNat := by
  simp [Link.lenByte, hk, List.getD_eq_getElem?_getD, hlen]

/-- Bytes from a SYNC on that have a LEN in range, and end before its last byte, are less than a frame. -/
theorem Link.assemblyOk_part {b len : RxByte} {rest : List RxByte} (hk : k.assembly = b :: rest)
    (hb : b.value = 0xC3) (hlen : rest[2]? = some len) (h2 : 2 ≤ len.value.toNat) (h242 : len.value.toNat ≤ 242)
    (hpart : rest.length + 1 < len.value.toNat + 6) : k.assemblyOk := by
  refine .inr ⟨by simp [hk, hb], fun _ => ?_⟩
  rw [Link.lenByte_eq hk hlen, hk, List.length_cons]
  exact ⟨h2, h242, hpart⟩

/-- What stands in the reply slot stays there when the receiver discards. -/
theorem Link.discardAssembly_slot (k : Link) : k.discardAssembly.slot = k.slot := by
  unfold Link.discardAssembly
  split <;> rfl

namespace Link.ok

theorem withAssembly (h : k.ok) {xs : List RxByte} (ha : ({ k with assembly := xs } : Link).assemblyOk) :
    ({ k with assembly := xs } : Link).ok :=
  have ⟨_, hothers⟩ := h
  ⟨ha, hothers⟩

theorem countDiscard (h : k.ok) : k.countDiscard.ok :=
  have ⟨ha, hqueue, hsilent, _, hcounts⟩ := h
  ⟨ha, hqueue, hsilent, saturate_le _ _, hcounts⟩

theorem countOverrun (h : k.ok) : ({ k with overrun := saturate 65535 k.overrun } : Link).ok :=
  have ⟨ha, hqueue, hsilent, hdiscarded, _, hcounts⟩ := h
  ⟨ha, hqueue, hsilent, hdiscarded, saturate_le _ _, hcounts⟩

theorem countCollision (h : k.ok) : ({ k with collision := saturate 65535 k.collision } : Link).ok :=
  have ⟨ha, hqueue, hsilent, hdiscarded, hoverrun, _, hrepeats⟩ := h
  ⟨ha, hqueue, hsilent, hdiscarded, hoverrun, saturate_le _ _, hrepeats⟩

theorem countRepeat (h : k.ok) : ({ k with repeats := saturate 65535 k.repeats } : Link).ok :=
  have ⟨ha, hqueue, hsilent, hdiscarded, hoverrun, hcollision, _⟩ := h
  ⟨ha, hqueue, hsilent, hdiscarded, hoverrun, hcollision, saturate_le _ _⟩

theorem clearCounts (h : k.ok) : k.clearCounts.ok :=
  have ⟨ha, hqueue, hsilent, _⟩ := h
  ⟨ha, hqueue, hsilent, Nat.zero_le _, Nat.zero_le _, Nat.zero_le _, Nat.zero_le _⟩

theorem discardAssembly (h : k.ok) : k.discardAssembly.ok := by
  unfold Link.discardAssembly
  split
  · exact h
  · exact h.countDiscard.withAssembly (Link.assemblyOk_nil rfl)

/-- A frame joins a queue of fewer than 4; at a station of address 0 it is no unicast frame. -/
theorem enqueue (h : k.ok) {f : Frame} (hroom : k.inbound.length < 4)
    (hf : k.address = 0 → f.addressing ≠ .unicast) : ({ k with inbound := k.inbound ++ [f] } : Link).ok := by
  obtain ⟨ha, -, hsilent, hcounts⟩ := h
  refine ⟨ha, ?_, fun h0 => ⟨(hsilent h0).1, fun g hg => ?_⟩, hcounts⟩
  · rw [List.length_append]
    exact hroom
  · obtain hg | hg := List.mem_append.1 hg
    · exact (hsilent h0).2 g hg
    · exact List.mem_singleton.1 hg ▸ hf h0

/-- The oldest frame leaves the queue. -/
theorem dequeue (h : k.ok) {f : Frame} {rest : List Frame} (hk : k.inbound = f :: rest) :
    ({ k with inbound := rest } : Link).ok := by
  obtain ⟨ha, hqueue, hsilent, hcounts⟩ := h
  rw [hk, List.length_cons] at hqueue
  refine ⟨ha, Nat.le_of_succ_le hqueue, fun h0 => ⟨(hsilent h0).1, fun g hg => (hsilent h0).2 g ?_⟩, hcounts⟩
  rw [hk]
  exact List.mem_cons_of_mem f hg

/-- The slot is filled, and the repeat store with it, at a station that may reply. -/
theorem fillSlot (h : k.ok) (h0 : k.address ≠ 0) (x : Option ReplySlot) (u : Option StoredReply) :
    ({ k with slot := x, unicastStore := u } : Link).ok :=
  have ⟨ha, hqueue, _, hcounts⟩ := h
  ⟨ha, hqueue, fun h => absurd h h0, hcounts⟩

theorem release (h : k.ok) (now : Moment) : ({ k with slot := none, listenFrom := now } : Link).ok :=
  have ⟨ha, hqueue, hsilent, hcounts⟩ := h
  ⟨ha, hqueue, fun h0 => ⟨rfl, (hsilent h0).2⟩, hcounts⟩

theorem withGroupStore (h : k.ok) (g : Option (Byte × Byte)) : ({ k with groupStore := g } : Link).ok := h

theorem withSettings (h : k.ok) (groups : BitVec 16) (delay : BitVec 8) :
    ({ k with groups := groups, replyDelay := delay } : Link).ok := h

/-- A station with a reply in its slot, or with a unicast frame, is not listen-only. -/
theorem address_ne_zero_of_slot (h : k.ok) {x : ReplySlot} (hx : k.slot = some x) : k.address ≠ 0 := fun h0 =>
  have ⟨_, _, hsilent, _⟩ := h
  nomatch hx.symm.trans (hsilent h0).1

theorem address_ne_zero_of_unicast (h : k.ok) {f : Frame} (hf : f ∈ k.inbound) (hu : f.addressing = .unicast) :
    k.address ≠ 0 := fun h0 =>
  have ⟨_, _, hsilent, _⟩ := h
  (hsilent h0).2 f hf hu

end Link.ok

/-- The link blocks after a full reset, with any straps (R161). -/
theorem Link.cleared_ok (address : BitVec 5) (rate : BitVec 2) (now : Moment) :
    ({ Link.cleared with address := address, rate := rate, listenFrom := now } : Link).ok :=
  ⟨Link.assemblyOk_nil rfl, Nat.zero_le _, fun _ => ⟨rfl, nofun⟩, Nat.zero_le _, Nat.zero_le _, Nat.zero_le _,
    Nat.zero_le _⟩

end

/-! ### The receiver (R143, R145, R146) -/

section

variable {s t : State}

/-- A station of address 0 is never addressed by a unicast frame (R141, R142). -/
theorem addressingOf_address_zero (dest : Byte) (groups : BitVec 16) :
    addressingOf dest 0 groups ≠ some .unicast := by
  unfold addressingOf
  split
  · exact nofun
  · split
    · rename_i h
      obtain ⟨h1, -, h0⟩ := h
      rw [h0] at h1
      exact absurd h1 (by decide)
    · split
      · split <;> exact nofun
      · exact nofun

theorem State.frameEnds_linkOk (h : s.link.ok) (v : List Byte) (ended : Moment) (groups : BitVec 16) :
    (s.frameEnds v ended groups).link.ok := by
  unfold State.frameEnds
  split
  · exact h
  · rename_i a haddressed
    dsimp only
    split
    · rename_i hroom
      refine h.enqueue hroom fun h0 hunicast => ?_
      rw [h0] at haddressed
      exact addressingOf_address_zero _ groups (haddressed.trans (congrArg some hunicast))
    · exact h.countOverrun

/-- Each look at the bytes held leaves the link in order, whatever the bytes are. -/
theorem LooksAt.linkOk {bytes : List RxByte} (hlook : LooksAt s bytes t) (h : s.link.ok) : t.link.ok := by
  induction hlook with
  | hunt s => exact h.withAssembly (Link.assemblyOk_nil rfl)
  | passOver s t b rest _ _ ih => exact ih h
  | keepShort s b rest hb hshort => exact h.withAssembly (Link.assemblyOk_short rfl hb hshort)
  | keep s b len rest hb hlen h2 h242 hpart =>
    exact h.withAssembly (Link.assemblyOk_part rfl hb hlen h2 h242 hpart)
  | badLen s t b len rest _ _ _ _ ih => exact ih h.countDiscard
  | badCrc s t b len rest _ _ _ _ _ _ _ ih => exact ih h.countDiscard
  | frame s t b len last rest _ _ _ _ _ _ _ _ ih => exact ih (State.frameEnds_linkOk h _ _ _)

theorem State.endGap_linkOk (h : s.link.ok) (began : Moment) : (s.endGap began).link.ok := by
  unfold State.endGap
  split
  · exact h.discardAssembly
  · exact h

theorem State.receiveByte_linkOk (h : s.link.ok) (b : Byte) (began : Moment) : (s.receiveByte b began).link.ok := by
  unfold State.receiveByte
  split
  · exact (State.scan_looksAt _ _ _ (Nat.lt_succ_self _)).linkOk (State.endGap_linkOk h began)
  · exact h

/-! ### Requests and the decoder (R148 to R153) -/

/-- Of the link a request's handler writes the settings, or sets the counts to 0 (R157, R158, R159). -/
theorem Request.handler_link (r : Request) (f : Frame) (s : State) :
    (∃ groups delay, (r.handler f s).1.link = { s.link with groups := groups, replyDelay := delay })
      ∨ (r.handler f s).1.link = s.link.clearCounts := by
  have same (h : (r.handler f s).1.link = s.link) :
      (∃ groups delay, (r.handler f s).1.link = { s.link with groups := groups, replyDelay := delay })
        ∨ (r.handler f s).1.link = s.link.clearCounts := .inl ⟨s.link.groups, s.link.replyDelay, h⟩
  have same_of_eq {u : State} (e : (r.handler f s).1 = u) (hu : u.link = s.link) :=
    same ((congrArg State.link e).trans hu)
  cases r with
  | identify | readTime | restart | readLines | watchStatus | setGuard | clear | trimRing => exact same rfl
  | setLink => exact .inl ⟨s.link.groups, byteAt f.payload 0, rfl⟩
  | joinGroups =>
    obtain ⟨g, e⟩ := onJoinGroups_state f s
    exact .inl ⟨g, s.link.replyDelay, congrArg State.link e⟩
  | linkStatus =>
    have unchanged : ∃ groups delay, s.link = { s.link with groups := groups, replyDelay := delay } :=
      ⟨s.link.groups, s.link.replyDelay, rfl⟩
    dsimp only [Request.handler, onLinkStatus]
    split
    · exact .inl unchanged
    · split
      · exact .inr rfl
      · exact .inl unchanged
  | setTime =>
    obtain ⟨stamp, u, ws, hwork, e⟩ := onSetTime_state f s
    exact same_of_eq e hwork.link
  | storeSteps => obtain ⟨x, e, -⟩ := onStoreSteps_rewrites f s; exact same_of_eq e rfl
  | eraseSteps => obtain ⟨x, e, -⟩ := onEraseSteps_rewrites f s; exact same_of_eq e rfl
  | readSteps => exact same_of_eq (onReadSteps_state f s) rfl
  | pageStatus => exact same_of_eq (onPageStatus_state f s) rfl
  | claimLines => obtain ⟨c, e⟩ := onClaimLines_state f s; exact same_of_eq e rfl
  | releaseLines => obtain ⟨c, e⟩ := onReleaseLines_state f s; exact same_of_eq e rfl
  | setSegments => obtain ⟨xs, e⟩ := onSetSegments_state f s; exact same_of_eq e rfl
  | readSegments => exact same_of_eq (onReadSegments_state f s) rfl
  | setLane => obtain ⟨xs, e⟩ := onSetLane_state f s; exact same_of_eq e rfl
  | arm => exact same (onArm_work f s).link
  | start => exact same (onLaneSet_work f s fun l u => startAct_work u l).link
  | pause => exact same (onLaneSet_work f s fun l u => pauseAct_work u l).link
  | resume => exact same (onLaneSet_work f s fun l u => resumeAct_work u l).link
  | stop => exact same (onLaneSet_work f s fun l u => stopAct_work u l).link
  | abort => exact same (onLaneSet_work f s fun l u => abortAct_work u l).link
  | laneStatus => exact same_of_eq (onLaneStatus_state f s) rfl
  | setWatch => obtain ⟨ws, e⟩ := onSetWatch_state f s; exact same_of_eq e rfl
  | enableWatches => obtain ⟨ws, e⟩ := onEnableWatches_state f s; exact same_of_eq e rfl
  | setRing => obtain ⟨x, e⟩ := onSetRing_state f s; exact same_of_eq e rfl
  | readRing => exact same_of_eq (onReadRing_state f s) rfl
  | setNoticeMask => obtain ⟨n, e⟩ := onSetNoticeMask_state f s; exact same_of_eq e rfl
  | poll => obtain ⟨n, e, -⟩ := onPoll_state f s; exact same_of_eq e rfl

theorem Request.handler_linkOk (r : Request) (f : Frame) (h : s.link.ok) : (r.handler f s).1.link.ok := by
  obtain ⟨groups, delay, e⟩ | e := r.handler_link f s <;> rw [e]
  · exact h.withSettings groups delay
  · exact h.clearCounts

theorem Request.handler_address (r : Request) (f : Frame) (s : State) :
    (r.handler f s).1.link.address = s.link.address := by
  obtain ⟨groups, delay, e⟩ | e := r.handler_link f s <;> rw [e]
  rfl

theorem State.answer_linkOk (h : s.link.ok) (h0 : s.link.address ≠ 0) (f : Frame) (restart : Bool)
    (payload : List Byte) : (s.answer f restart payload).link.ok := h.fillSlot h0 _ _

theorem State.answerRepeat_linkOk (h : s.link.ok) (h0 : s.link.address ≠ 0) (f : Frame) (r : Reply) :
    (s.answerRepeat f r).link.ok := h.countRepeat.fillSlot h0 _ s.link.unicastStore

theorem State.takeUnicast_linkOk (h : s.link.ok) (h0 : s.link.address ≠ 0) (r : Request) (f : Frame) :
    (s.takeUnicast r r.handler f).link.ok := by
  unfold State.takeUnicast
  split
  · exact State.answerRepeat_linkOk h h0 f _
  · split
    · exact State.answer_linkOk (r.handler_linkOk f h) (r.handler_address f s ▸ h0) f _ _
    · exact State.answer_linkOk h h0 f _ _

theorem State.takeGroup_linkOk (h : s.link.ok) (r : Request) (f : Frame) :
    (s.takeGroup r r.handler f).link.ok := by
  unfold State.takeGroup
  split
  · exact h.countRepeat
  · split
    · exact (r.handler_linkOk f h).withGroupStore _
    · exact h

/-- A frame that is taken: only a unicast frame, which no listen-only station holds, is answered. -/
theorem State.takeFrame_linkOk (h : s.link.ok) (r : Request) {f : Frame}
    (h0 : f.addressing = .unicast → s.link.address ≠ 0) : (s.takeFrame r r.handler f).link.ok := by
  unfold State.takeFrame
  split
  · rename_i hunicast; exact State.takeUnicast_linkOk h (h0 hunicast) r f
  all_goals exact State.takeGroup_linkOk h r f

theorem State.takeBadKind_linkOk (h : s.link.ok) {f : Frame}
    (h0 : f.addressing = .unicast → s.link.address ≠ 0) : (s.takeBadKind f).link.ok := by
  unfold State.takeBadKind
  split
  · rename_i hunicast
    split
    · exact State.answerRepeat_linkOk h (h0 hunicast) f _
    · exact State.answer_linkOk h (h0 hunicast) f _ _
  all_goals
    split
    · exact h.countRepeat
    · exact h

theorem Link.nextFrame_eq_some {k : Link} {f : Frame} {rest : List Frame} :
    k.nextFrame = some (f, rest) ↔ k.slot = none ∧ k.inbound = f :: rest := by
  unfold Link.nextFrame
  split
  · rename_i g gs hslot hinbound; simp [hslot, hinbound]
  · rename_i hno
    exact ⟨nofun, fun ⟨hslot, hinbound⟩ => (hno f rest hslot hinbound).elim⟩

/-- Whatever the decoder does with the frame that it takes from the queue. -/
theorem State.taken_linkOk (h : s.link.ok) {f : Frame} {rest : List Frame} (hnext : s.link.nextFrame = some (f, rest))
    {take : State → State}
    (htake : ∀ u : State, u.link.ok → (f.addressing = .unicast → u.link.address ≠ 0) → (take u).link.ok) :
    (take (s.popInbound rest)).link.ok := by
  obtain ⟨-, hinbound⟩ := Link.nextFrame_eq_some.1 hnext
  have hmem : f ∈ s.link.inbound := hinbound ▸ List.mem_cons_self
  exact htake _ (h.dequeue hinbound) (h.address_ne_zero_of_unicast hmem)

theorem State.outsideReset_linkOk {f : State → State} (h : s.link.ok) (hf : (f s).link.ok) :
    (s.outsideReset f).link.ok := by
  unfold State.outsideReset
  split
  · exact hf
  · exact h

theorem decoderStep_linkOk (h : s.link.ok) (r : Request) : (decoderStep r r.handler s).link.ok := by
  refine State.outsideReset_linkOk h ?_
  split
  · rename_i hnext
    split
    · exact State.taken_linkOk h hnext fun u hu h0 => State.takeFrame_linkOk hu r h0
    · exact h
  · exact h

/-! ### Resets and the transmitter (R154, R155, R170, R171) -/

theorem State.beginReset_linkOk (h : s.link.ok) (c : ResetCause) : (s.beginReset c).link.ok := by
  unfold State.beginReset
  split
  iterate 2 exact Link.cleared_ok 0 0 0
  all_goals exact h

theorem State.afterReset_linkOk (s : State) (c : ResetCause) (adr : BitVec 5) (spd : BitVec 2) (o : Outside) :
    (s.afterReset c adr spd o).link.ok := Link.cleared_ok adr spd s.now

theorem State.releaseLine_linkOk (h : s.link.ok) : s.releaseLine.link.ok := by
  unfold State.releaseLine
  split
  · exact h
  · dsimp only
    split
    · exact State.beginReset_linkOk (s := s.setLink _) (h.release s.now) _
    · exact h.release s.now

/-! ### The work of the other blocks -/

theorem WatchWork.link (h : WatchWork s t) : t.link = s.link := by rw [h.frame]

theorem State.takeSample_link (s : State) (order : List Receiver) : (s.takeSample order).link = s.link := by
  by_cases htaken : s.sampleAt = s.now
  · rw [s.takeSample_taken order htaken]
  · by_cases hsame : s.lineLevels = s.sampled
    · rw [s.takeSample_same order htaken hsame]
    · rw [s.takeSample_change order htaken hsame]
      exact (State.deliverSample_work _ _ _).link

/-! ### Commands and steps -/

/-- An event outside a reset that the link blocks take part in, or take no part in. -/
theorem State.linkOk_of_next {f : State → State} (h : s.link.ok) (hf : (f s).link.ok)
    (ht : (.next (s.outsideReset f) : Host.Outcome State Fault Refusal) = .next t) : t.link.ok := by
  cases ht
  exact State.outsideReset_linkOk h hf

theorem exec_linkOk {c : Instr} (h : s.link.ok) (ht : exec c s = .next t) : t.link.ok := by
  have same {u : State} (hu : u.link = s.link) : u.link.ok := hu ▸ h
  cases c using Instr.byRequest with
  | request r => rw [exec_command] at ht; cases ht; exact decoderStep_linkOk h r
  | badKind =>
    refine State.linkOk_of_next h ?_ ht
    split
    · rename_i hnext
      split
      · exact h
      · exact State.taken_linkOk h hnext fun u hu h0 => State.takeBadKind_linkOk hu h0
    · exact h
  | powerReset => cases ht; exact State.beginReset_linkOk h _
  | resetPin => cases ht; exact State.beginReset_linkOk h _
  | fullResetEnd a d o =>
    cases ht
    split
    · exact s.afterReset_linkOk _ a d o
    · exact h
  | byteReceived b m => exact State.linkOk_of_next h (State.receiveByte_linkOk h b m) ht
  | frameReceived b m =>
    refine State.linkOk_of_next h ?_ ht
    split
    · exact State.receiveByte_linkOk h b m
    · exact h
  | framingError m =>
    refine State.linkOk_of_next h ?_ ht
    split
    · exact h.discardAssembly
    · exact h
  | gapTimeout =>
    refine State.linkOk_of_next h ?_ ht
    split
    · exact h.discardAssembly
    · exact h
  | replyDelayExpiry =>
    refine State.linkOk_of_next h ?_ ht
    split
    · rename_i x hx
      split
      · have hx' : s.link.discardAssembly.slot = some x := s.link.discardAssembly_slot.trans hx
        exact h.discardAssembly.fillSlot (h.discardAssembly.address_ne_zero_of_slot hx') _
          s.link.discardAssembly.unicastStore
      · exact h
    · exact h
  | replyEnd =>
    refine State.linkOk_of_next h ?_ ht
    split
    · exact State.releaseLine_linkOk h
    · exact h
  | collision i b =>
    refine State.linkOk_of_next h ?_ ht
    split
    · exact State.releaseLine_linkOk (s := s.setLink _) h.countCollision
    · exact h
  | changeEvent o rs => exact State.linkOk_of_next h (same (State.takeSample_link _ rs)) ht
  | openingComparison l =>
    refine State.linkOk_of_next h ?_ ht
    repeat' split
    · exact same ((s.setLane_work l _).trans (State.compareAt_work _ l _ _)).link
    all_goals exact h
  | holdExpiry l =>
    refine State.linkOk_of_next h ?_ ht
    repeat' split
    · exact same (s.holdExpires_work l _).link
    all_goals exact h
  | awaitTimeout l =>
    refine State.linkOk_of_next h ?_ ht
    repeat' split
    · exact same (s.limitExpires_work l _).link
    all_goals exact h
  | timeTrigger l =>
    refine State.linkOk_of_next h ?_ ht
    split
    · exact same (s.startLane_work l _).link
    · exact h
  | holdoffExpiry w =>
    refine State.linkOk_of_next h ?_ ht
    split <;> exact h
  | guardExpiry =>
    refine State.linkOk_of_next h ?_ ht
    split
    · exact same s.expireGuard_work.link
    · exact h

theorem State.tick_link (s : State) : s.tick.link = s.link := by
  unfold State.tick
  split <;> rfl

end

/-- Settles O58: the link blocks in order through every command (`exec_linkOk`), and time passing without a change
of them. -/
theorem stepKeepsTheLink : Obligations.StepKeepsTheLink := by
  intro s t h ht
  have hcmd (c : Instr) (u : State) (hc : exec c u = .next t) (hu : u.link = s.link) : t.link.ok :=
    exec_linkOk (hu ▸ h) hc
  refine step_cases (P := fun t => t.link.ok) ht (fun c rest _ hc => hcmd c _ hc rfl) (fun _ hi => ?_)
  unfold idle at hi
  split at hi
  · cases hi
    exact s.tick_link ▸ h
  all_goals exact hcmd _ _ hi rfl

end Sys2Proof.Machine

/-!
SUPPORT. The receiver byte by byte (R142 to R147): a byte that is not looked at, one that finds its gap passed, one that
the frame in assembly takes, and the last byte of a frame with a right or a wrong CRC.
-/

namespace Sys2Proof.Machine

/-! ### Bytes that are looked at, and gaps (R144, R147) -/

theorem Link.listens_iff {k : Link} {began : Moment} :
    k.listens began = true ↔ (∀ x, k.slot = some x → x.sendingSince = none) ∧ k.listenFrom ≤ began := by
  unfold Link.listens Link.sending
  split
  · rename_i x hx; simp [hx]
  · rename_i hx; simp [hx]

theorem Link.gapPassed_iff {k : Link} {now : Moment} :
    k.gapPassed now = true ↔
      ∃ last, k.assembly.getLast? = some last
        ∧ 4 * 10 * 1000000 < (now - last.received) * Config.bitRate k.rate := by
  unfold Link.gapPassed
  split
  · rename_i last hlast; simp [hlast]
  · rename_i hnone; simp [hnone]

/-- No gap passes in HUNT. -/
theorem Link.gapPassed_hunt {k : Link} (h : k.assembly = []) (now : Moment) : k.gapPassed now = false := by
  rw [← Bool.not_eq_true, Link.gapPassed_iff, h]
  rintro ⟨last, hlast, -⟩
  cases hlast

theorem Link.assembly_ne_nil_of_gapPassed {k : Link} {now : Moment} (h : k.gapPassed now = true) :
    k.assembly ≠ [] := fun hnil => by
  rw [Link.gapPassed_hunt hnil] at h
  cases h

theorem Link.discardAssembly_hunt {k : Link} (h : k.assembly = []) : k.discardAssembly = k := by
  simp [Link.discardAssembly, h]

theorem Link.discardAssembly_frame {k : Link} (h : k.assembly ≠ []) :
    k.discardAssembly = { k with assembly := [], discarded := saturate 65535 k.discarded } := by
  simp [Link.discardAssembly, h, Link.countDiscard]

section

variable {s t : State} {b : Byte} {began : Moment}

/-- What an event answers outside a reset. -/
theorem State.next_outsideReset {f : State → State} (hs : s.resetting = none) (h : f s = t) :
    (.next (s.outsideReset f) : Host.Outcome State Fault Refusal) = .next t :=
  congrArg Host.Outcome.next ((s.outsideReset_none f hs).trans h)

theorem State.setAssembly_self {xs : List RxByte} (s : State) (h : s.link.assembly = xs) :
    s.setLink { s.link with assembly := xs } = s := by
  subst h; rfl

/-- A byte as the receiver keeps it: with its moment and the group set in force (notes/assumptions/13.md). -/
abbrev State.arriving (s : State) (b : Byte) : RxByte :=
  { value := b, received := s.now, groups := s.link.groups }

theorem State.endGap_open (h : s.link.gapPassed began = false) : s.endGap began = s := by
  rw [State.endGap, h, if_neg Bool.false_ne_true]

theorem State.endGap_passed (h : s.link.gapPassed began = true) :
    s.endGap began = s.setLink s.link.discardAssembly := if_pos h

theorem State.receiveByte_deaf (h : s.link.listens began = false) : s.receiveByte b began = s := by
  rw [State.receiveByte, h, if_neg Bool.false_ne_true]

/-- A byte that is looked at in time is put behind those held, and all of them are looked at. -/
theorem State.receiveByte_heard (hl : s.link.listens began = true) (hg : s.link.gapPassed began = false) :
    s.receiveByte b began =
      s.scan (s.link.assembly.length + 2) (s.link.assembly ++ [s.arriving b]) := by
  rw [State.receiveByte, hl, if_pos rfl, State.endGap_open hg]
  simp

/-- A byte after a passed gap finds the frame discarded, and the receiver in HUNT. -/
theorem State.receiveByte_late (hl : s.link.listens began = true) (hg : s.link.gapPassed began = true) :
    s.receiveByte b began = (s.setLink s.link.discardAssembly).receiveByte b began := by
  have hcut := Link.discardAssembly_frame (Link.assembly_ne_nil_of_gapPassed hg)
  have hl' : (s.setLink s.link.discardAssembly).link.listens began = true := by
    rw [State.setLink_link, hcut]; exact hl
  have hg' : (s.setLink s.link.discardAssembly).link.gapPassed began = false :=
    Link.gapPassed_hunt (by rw [State.setLink_link, hcut]) began
  rw [State.receiveByte, State.receiveByte, hl, hl', if_pos rfl, if_pos rfl, State.endGap_passed hg,
    State.endGap_open hg']

end

/-! ### Less than a frame (R143) -/

section

variable {s : State} {k : Link} {n : Nat}

/-- Four bytes or more have a LEN byte. -/
theorem exists_lenByte {α : Type} {xs : List α} (h : 4 ≤ xs.length) :
    ∃ sync dest src len rest, xs = sync :: dest :: src :: len :: rest :=
  match xs, h with
  | sync :: dest :: src :: len :: rest, _ => ⟨sync, dest, src, len, rest, rfl⟩

/-- The frame in assembly, once its LEN has come. -/
theorem Link.assemblyOk.frame (h : k.assemblyOk) (h4 : 4 ≤ k.assembly.length) :
    ∃ sync dest src len rest, k.assembly = sync :: dest :: src :: len :: rest ∧ sync.value = 0xC3
      ∧ k.lenByte = len.value.toNat ∧ 2 ≤ k.lenByte ∧ k.lenByte ≤ 242 ∧ k.assembly.length < k.lenByte + 6 := by
  obtain ⟨sync, dest, src, len, rest, hk⟩ := exists_lenByte h4
  obtain hnil | ⟨hsync, hlong⟩ := h
  · rw [hk] at hnil; cases hnil
  · obtain ⟨h2, h242, hpart⟩ := hlong h4
    refine ⟨sync, dest, src, len, rest, hk, ?_, Link.lenByte_eq hk rfl, h2, h242, hpart⟩
    simpa [hk] using hsync

/-- What is held begins with its SYNC. -/
theorem Link.assemblyOk.sync (h : k.assemblyOk) (hk : k.assembly ≠ []) :
    ∃ b rest, k.assembly = b :: rest ∧ b.value = 0xC3 := by
  obtain hnil | ⟨hsync, -⟩ := h
  · exact absurd hnil hk
  · obtain ⟨b, rest, hb⟩ := List.exists_cons_of_ne_nil hk
    exact ⟨b, rest, hb, by simpa [hb] using hsync⟩

/-- Bytes that are less than a frame from their SYNC on are kept. -/
theorem State.scan_of_assemblyOk {bytes : List RxByte}
    (h : ({ s.link with assembly := bytes } : Link).assemblyOk) :
    s.scan (n + 1) bytes = s.setLink { s.link with assembly := bytes } := by
  by_cases h4 : 4 ≤ bytes.length
  · obtain ⟨sync, dest, src, len, rest, rfl, hsync, hlen, h2, h242, hpart⟩ := h.frame h4
    rw [hlen] at h2 h242 hpart
    exact s.scan_part n sync dest src len rest hsync h2 h242 hpart
  · by_cases hnil : bytes = []
    · rw [hnil, s.scan_nil]
    · obtain ⟨b, rest, rfl, hb⟩ := h.sync hnil
      rw [List.length_cons] at h4
      exact s.scan_header n b rest hb (by omega)

/-- The bytes from the first SYNC on (R145). -/
abbrev fromSync (bytes : List RxByte) : List RxByte := bytes.dropWhile fun x => x.value != 0xC3

theorem fromSync_sync {x : RxByte} (xs : List RxByte) (h : x.value = 0xC3) : fromSync (x :: xs) = x :: xs := by
  simp [fromSync, h]

theorem fromSync_other {x : RxByte} (xs : List RxByte) (h : x.value ≠ 0xC3) :
    fromSync (x :: xs) = fromSync xs :=
  List.dropWhile_cons_of_pos (bne_iff_ne.2 h)

/-- Of bytes that are looked at the receiver passes over those before the first SYNC; less than a frame from there on is
kept. -/
theorem State.scan_hunts {bytes : List RxByte} (hn : bytes.length < n)
    (h : ({ s.link with assembly := fromSync bytes } : Link).assemblyOk) :
    s.scan n bytes = s.setLink { s.link with assembly := fromSync bytes } := by
  induction bytes generalizing n with
  | nil => exact s.scan_nil n
  | cons x xs ih =>
    obtain ⟨n, rfl⟩ := Nat.exists_eq_succ_of_ne_zero (Nat.ne_zero_of_lt hn)
    by_cases hx : x.value = 0xC3
    · rw [fromSync_sync xs hx] at h ⊢
      exact State.scan_of_assemblyOk h
    · rw [fromSync_other xs hx] at h ⊢
      rw [s.scan_skip n x xs hx]
      exact ih (Nat.lt_of_succ_lt_succ hn) h

/-- Of three bytes or fewer, what stands from the first SYNC on is less than a frame. -/
theorem Link.assemblyOk_fromSync {bytes : List RxByte} (hshort : bytes.length ≤ 3)
    (hk : k.assembly = fromSync bytes) : k.assemblyOk := by
  cases hdrop : fromSync bytes with
  | nil => exact Link.assemblyOk_nil (hk.trans hdrop)
  | cons x xs =>
    have hx : x.value = 0xC3 := by
      unfold fromSync at hdrop
      have hhead := List.head?_dropWhile_not (fun x : RxByte => x.value != 0xC3) bytes
      rw [hdrop] at hhead
      simpa using hhead
    have hlen : (x :: xs).length ≤ bytes.length := hdrop ▸ (List.dropWhile_sublist _).length_le
    rw [List.length_cons] at hlen
    exact Link.assemblyOk_short (hk.trans hdrop) hx (by omega)

/-- A byte that the frame in assembly takes: DEST, SRC, a LEN in range, or one before the last. -/
theorem Link.assemblyOk.append {x : RxByte} (h : k.assemblyOk)
    (hx : k.assembly.length = 1 ∨ k.assembly.length = 2
      ∨ (k.assembly.length = 3 ∧ 2 ≤ x.value.toNat ∧ x.value.toNat ≤ 242)
      ∨ (4 ≤ k.assembly.length ∧ k.assembly.length + 1 < k.lenByte + 6)) :
    ({ k with assembly := k.assembly ++ [x] } : Link).assemblyOk := by
  by_cases h4 : 4 ≤ k.assembly.length
  · obtain ⟨sync, dest, src, len, rest, hk, hsync, hlen, h2, h242, -⟩ := h.frame h4
    have hlength : k.assembly.length = rest.length + 4 := by rw [hk]; rfl
    refine Link.assemblyOk_part (len := len) (congrArg (· ++ [x]) hk) hsync rfl (hlen ▸ h2) (hlen ▸ h242) ?_
    simp
    omega
  · have hne : k.assembly ≠ [] := by
      intro hnil
      rw [hnil, List.length_nil] at hx
      omega
    obtain ⟨b, rest, hk, hb⟩ := h.sync hne
    have hlength : k.assembly.length = rest.length + 1 := by rw [hk]; rfl
    by_cases h2 : rest.length = 2
    · obtain ⟨dest, src, rfl⟩ := List.length_eq_two.1 h2
      exact Link.assemblyOk_part (len := x) (congrArg (· ++ [x]) hk) hb rfl (by omega) (by omega) (by simp)
    · exact Link.assemblyOk_short (congrArg (· ++ [x]) hk) hb (by simp; omega)

end

/-- Settles O8: what is looked at and when by the two tests, a byte that a frame takes by `Link.assemblyOk.append`. -/
theorem byteReceivedAssemblesFrames : Obligations.ByteReceivedAssemblesFrames := by
  intro s b began hs k new
  have hnext {t : State} (h : s.receiveByte b began = t) : exec (.byteReceived b began) s = .next t :=
    State.next_outsideReset hs h
  refine ⟨Link.listens_iff, Link.gapPassed_iff, fun hl => hnext (State.receiveByte_deaf hl), fun hl hg => ?_,
    fun hl hg hok => ?_⟩
  · rw [← Link.discardAssembly_frame (Link.assembly_ne_nil_of_gapPassed hg)]
    exact (hnext (State.receiveByte_late hl hg)).trans
      (State.next_outsideReset (s := s.setLink s.link.discardAssembly) hs rfl).symm
  · have hheard := State.receiveByte_heard (b := b) hl hg
    refine ⟨fun hhunt hb => hnext ?_, fun hhunt hb => hnext ?_, fun htaken => hnext ?_⟩
    · rw [hheard, hhunt]
      have hnone : fromSync [new] = [] := fromSync_other [] hb
      have hok' : ({ k with assembly := fromSync [new] } : Link).assemblyOk := Link.assemblyOk_nil hnone
      refine (State.scan_hunts (Nat.lt_add_one 1) hok').trans ?_
      rw [hnone]
      exact s.setAssembly_self hhunt
    · rw [hheard, hhunt]
      exact State.scan_of_assemblyOk (Link.assemblyOk_short rfl hb (Nat.zero_lt_succ 2))
    · exact hheard.trans (State.scan_of_assemblyOk (hok.append htaken))

end Sys2Proof.Machine

/-!
SUPPORT. Whole frames and discards (R143 to R146): the second look after a LEN out of range or a wrong CRC, the frame
with a right CRC, the CRC itself, whom a DEST addresses, and the two events that cut a frame off.
-/

namespace Sys2Proof.Machine

/-! ### The CRC (R145, R175) -/

/-- The two CRC bytes are the two halves of the register. -/
theorem crcBytes_eq (bytes : List Byte) :
    crcBytes bytes = [(crc16 bytes).extractLsb' 8 8, (crc16 bytes).extractLsb' 0 8] := by
  have hhigh : byteOf ((crc16 bytes).toNat / 256) = (crc16 bytes).extractLsb' 8 8 := by
    apply BitVec.eq_of_toNat_eq
    simp [byteOf, Nat.shiftRight_eq_div_pow]
  have hlow : byteOf (crc16 bytes).toNat = (crc16 bytes).extractLsb' 0 8 := by
    apply BitVec.eq_of_toNat_eq
    simp [byteOf]
  rw [crcBytes, hhigh, hlow]

/-- The CRC of a frame is right when its last two bytes are the CRC of the bytes between them and the SYNC. -/
theorem frameCrcOk_iff {values : List Byte} (h : 3 ≤ values.length) :
    frameCrcOk values = true ↔ ∃ sync covered, values = [sync] ++ covered ++ crcBytes covered := by
  unfold frameCrcOk
  rw [decide_eq_true_iff]
  constructor
  · intro hcrc
    have hne : values ≠ [] := List.ne_nil_of_length_pos (Nat.lt_of_lt_of_le (by decide) h)
    obtain ⟨sync, later, rfl⟩ := List.exists_cons_of_ne_nil hne
    refine ⟨sync, later.take (later.length - 2), ?_⟩
    have hsplit : (sync :: later).length - 2 = (later.length - 2) + 1 := by rw [List.length_cons] at h ⊢; omega
    have hcovered : (sync :: later).length - 3 = later.length - 2 := by rw [List.length_cons]; omega
    rw [hsplit, hcovered, List.drop_succ_cons, List.drop_succ_cons, List.drop_zero] at hcrc
    rw [← hcrc, List.singleton_append, List.cons_append, List.take_append_drop]
  · rintro ⟨sync, covered, rfl⟩
    simp [crcBytes]

theorem crc16_append (bytes : List Byte) (b : Byte) :
    crc16 (bytes ++ [b]) = crcByte (crc16 bytes) b := by
  rw [crc16, List.foldl_append]
  rfl

/-! ### The last byte of a frame (R145, R146) -/

/-- With its last byte the frame in assembly is whole. -/
theorem Link.assemblyOk.whole {k : Link} (h : k.assemblyOk) (h4 : 4 ≤ k.assembly.length)
    (hlast : k.assembly.length + 1 = k.lenByte + 6) (x : RxByte) :
    ∃ sync dest src len rest, k.assembly ++ [x] = sync :: dest :: src :: len :: rest
      ∧ k.assembly.tail ++ [x] = dest :: src :: len :: rest ∧ sync.value = 0xC3 ∧ 2 ≤ len.value.toNat
      ∧ len.value.toNat ≤ 242 ∧ (sync :: dest :: src :: len :: rest).length = len.value.toNat + 6 := by
  obtain ⟨sync, dest, src, len, rest, hk, hsync, hlen, h2, h242, -⟩ := h.frame h4
  rw [hlen] at h2 h242 hlast
  rw [hk] at hlast ⊢
  refine ⟨sync, dest, src, len, rest ++ [x], rfl, rfl, hsync, h2, h242, ?_⟩
  rw [← hlast]
  simp

section

variable {s : State} {b : Byte} {began : Moment} (hl : s.link.listens began = true)
  (hg : s.link.gapPassed began = false) (hok : s.link.assemblyOk) (h4 : 4 ≤ s.link.assembly.length)
  (hlast : s.link.assembly.length + 1 = s.link.lenByte + 6)

include h4 hlast in
/-- FRAME_RECEIVED and BYTE_RECEIVED of the last byte of a frame do the same (notes/assumptions/24.md). -/
theorem exec_lastByte {t : State} (hs : s.resetting = none) (h : s.receiveByte b began = t) :
    exec (.frameReceived b began) s = .next t ∧ exec (.byteReceived b began) s = .next t := by
  have hawaits : s.link.awaitsLast = true := by simp [Link.awaitsLast, h4, hlast]
  exact ⟨State.next_outsideReset hs ((if_pos hawaits).trans h), State.next_outsideReset hs h⟩

include hl hg hok h4 hlast

/-- The last byte of a frame with a wrong CRC: the frame is discarded and counted, and the bytes after its SYNC are
looked at again. -/
theorem State.receiveByte_badCrc
    (hcrc : frameCrcOk (s.link.assembly.map RxByte.value ++ [b]) = false) :
    s.receiveByte b began =
      s.discardCounted.scan (s.link.assembly.length + 1) (s.link.assembly.tail ++ [s.arriving b]) := by
  obtain ⟨sync, dest, src, len, rest, hwhole, htail, hsync, h2, h242, hlength⟩ := hok.whole h4 hlast (s.arriving b)
  have hcrc' : frameCrcOk ((s.link.assembly ++ [s.arriving b]).map RxByte.value) = false := by
    rw [List.map_append]; exact hcrc
  rw [State.receiveByte_heard hl hg, hwhole, htail]
  refine s.scan_badCrc _ sync dest src len rest hsync h2 h242 hlength.ge ?_
  rw [List.take_of_length_le hlength.le, ← hwhole, hcrc']

/-- The last byte of a frame with a right CRC: the frame ends, and nothing is left to look at. -/
theorem State.receiveByte_goodCrc (hcrc : frameCrcOk (s.link.assembly.map RxByte.value ++ [b]) = true) :
    let t := s.frameEnds (s.link.assembly.map RxByte.value ++ [b]) s.now s.link.groups
    s.receiveByte b began = t.setLink { t.link with assembly := [] } := by
  obtain ⟨sync, dest, src, len, rest, hwhole, -, hsync, h2, h242, hlength⟩ := hok.whole h4 hlast (s.arriving b)
  have hcrc' : frameCrcOk ((s.link.assembly ++ [s.arriving b]).map RxByte.value) = true := by
    rw [List.map_append]; exact hcrc
  have hends : s.judgeFrame (s.link.assembly ++ [s.arriving b]) =
      s.frameEnds (s.link.assembly.map RxByte.value ++ [b]) s.now s.link.groups := by
    rw [State.judgeFrame_frameEnds s _ _ List.getLast?_concat, List.map_append]
    rfl
  rw [State.receiveByte_heard hl hg, ← hends, hwhole]
  refine (s.scan_judge _ sync dest src len rest hsync h2 h242 hlength.ge ?_).trans ?_
  · rw [List.take_of_length_le hlength.le, ← hwhole, hcrc']
  · rw [List.take_of_length_le hlength.le, List.drop_of_length_le hlength.le, State.scan_nil]

end

/-- A LEN out of range: the frame is discarded and counted, and DEST and SRC are looked at again. -/
theorem State.receiveByte_badLen {s : State} {b : Byte} {began : Moment} {sync dest src : RxByte}
    (hl : s.link.listens began = true) (hg : s.link.gapPassed began = false)
    (hk : s.link.assembly = [sync, dest, src]) (hsync : sync.value = 0xC3) (hb : b.toNat < 2 ∨ 242 < b.toNat) :
    s.receiveByte b began =
      s.discardCounted.setLink
        { s.discardCounted.link with assembly := fromSync [dest, src, s.arriving b] } := by
  rw [State.receiveByte_heard hl hg, hk]
  refine (s.scan_badLen _ sync dest src (s.arriving b) [] hsync hb).trans ?_
  exact State.scan_hunts (s := s.discardCounted) (Nat.lt_add_one 3)
    (Link.assemblyOk_fromSync (bytes := [dest, src, s.arriving b]) (Nat.le_refl 3) rfl)

/-- Settles O9: the look at the bytes held is `State.scan_looksAt`; the two discards by `State.receiveByte_badLen` and
`State.receiveByte_badCrc`. -/
theorem discardedFramesAreLookedAtAgain : Obligations.DiscardedFramesAreLookedAtAgain := by
  refine ⟨?_, ?_, fun values h => ?_, rfl, crc16_append⟩
  · intro s b began sync dest src hs hl hg hk hsync hb new
    have hnew : new.value ≠ 0xC3 := fun h => by
      have hvalue : b = 0xC3 := h
      rw [hvalue] at hb
      exact absurd hb (by decide)
    have hnone : fromSync [new] = [] := fromSync_other [] hnew
    have hfrom : fromSync [dest, src, new] =
        if dest.value = 0xC3 then [dest, src, new] else if src.value = 0xC3 then [src, new] else [] := by
      split
      · rename_i hdest; exact fromSync_sync _ hdest
      · rename_i hdest
        rw [fromSync_other _ hdest]
        split
        · rename_i hsrc; exact fromSync_sync _ hsrc
        · rename_i hsrc; rw [fromSync_other _ hsrc, hnone]
    refine State.next_outsideReset hs ((State.receiveByte_badLen hl hg hk hsync hb).trans ?_)
    rw [hfrom]
    rfl
  · intro s b began hs hl hg new
    refine ⟨⟨_, State.next_outsideReset hs (State.receiveByte_heard hl hg),
      State.scan_looksAt _ _ _ (by simp)⟩, fun hok h4 hlast hcrc => ?_⟩
    intro later
    have hbad := State.receiveByte_badCrc hl hg hok h4 hlast hcrc
    have hshort : later.length < s.link.assembly.length + 1 := by
      simp only [later, List.length_append, List.length_tail, List.length_singleton]
      omega
    obtain ⟨hframe, hbyte⟩ := exec_lastByte h4 hlast hs hbad
    refine ⟨⟨_, hframe, hbyte, State.scan_looksAt _ _ _ hshort⟩, ?_⟩
    intro k hk
    exact exec_lastByte h4 hlast hs (hbad.trans (State.scan_hunts hshort hk))
  · rw [frameCrcOk_iff h]
    simp only [crcBytes_eq]

/-! ### Whom a DEST addresses (R142) -/

section

variable (dest : Byte) (address : BitVec 5) (groups : BitVec 16)

theorem addressingOf_eq_broadcast : addressingOf dest address groups = some .broadcast ↔ dest = 0x7F := by
  unfold addressingOf
  split
  · rename_i h; exact iff_of_true rfl h
  · rename_i h
    refine iff_of_false ?_ h
    repeat' split
    all_goals exact nofun

theorem addressingOf_eq_unicast :
    addressingOf dest address groups = some .unicast ↔ dest.toNat = address.toNat ∧ address ≠ 0 := by
  have h32 : address.toNat < 32 := address.isLt
  have hzero : address = 0 ↔ address.toNat = 0 := BitVec.toNat_inj.symm
  unfold addressingOf
  split
  · rename_i h
    have h127 : dest.toNat = 127 := congrArg BitVec.toNat h
    exact iff_of_false nofun fun ⟨hown, _⟩ => by omega
  · split
    · rename_i h
      obtain ⟨h1, -, hown⟩ := h
      exact iff_of_true rfl ⟨hown, fun h0 => by rw [hown, h0] at h1; exact absurd h1 (by decide)⟩
    · rename_i h
      refine iff_of_false ?_ fun ⟨hown, h0⟩ => h (by rw [Ne, hzero] at h0; omega)
      repeat' split
      all_goals exact nofun

theorem addressingOf_eq_group (g : Fin 16) :
    addressingOf dest address groups = some (.group g) ↔
      dest.toNat = 0x40 + g.val ∧ groups.getLsbD g.val = true := by
  have h16 : g.val < 16 := g.isLt
  unfold addressingOf
  split
  · rename_i h
    have h127 : dest.toNat = 127 := congrArg BitVec.toNat h
    exact iff_of_false nofun fun ⟨hg, _⟩ => by omega
  · split
    · exact iff_of_false nofun fun ⟨hg, _⟩ => by omega
    · split
      · rename_i hrange
        split
        · rename_i hjoined
          rw [Option.some.injEq, Addressing.group.injEq, Fin.ext_iff]
          constructor
          · intro hg
            exact ⟨by rw [← hg]; dsimp only; omega, hg ▸ hjoined⟩
          · rintro ⟨hg, -⟩
            dsimp only
            omega
        · rename_i hother
          refine iff_of_false nofun fun ⟨hg, hjoined⟩ => hother ?_
          rwa [hg, Nat.add_sub_cancel_left]
      · exact iff_of_false nofun fun ⟨hg, _⟩ => by omega

end

/-- Settles O10: the frame that ends by `State.receiveByte_goodCrc`, each addressing by its own lemma. -/
theorem wholeFrameIsJudgedByItsDest : Obligations.WholeFrameIsJudgedByItsDest := by
  refine ⟨?_, fun dest address groups => ⟨addressingOf_eq_broadcast dest address groups,
    addressingOf_eq_unicast dest address groups, addressingOf_eq_group dest address groups⟩⟩
  intro s b began hs hl hg hok h4 hlast hcrc v quiet guarded t
  refine exec_lastByte h4 hlast hs ((State.receiveByte_goodCrc hl hg hok h4 hlast hcrc).trans ?_)
  have hlen : (byteAt v 3).toNat = s.link.lenByte := by
    rw [byteAt, Link.lenByte, List.getD_append _ _ _ _ (by rw [List.length_map]; exact h4)]
  dsimp only [t, State.frameEnds]
  rw [← hlen]
  cases addressingOf (byteAt v 1) s.link.address s.link.groups with
  | none => rfl
  | some a =>
    by_cases hroom : s.link.inbound.length < 4
    · simp only [if_pos hroom]; rfl
    · simp only [if_neg hroom]; rfl

/-! ### A framing error, and a gap that passes (R143, R144) -/

/-- Settles O11: a frame in assembly is cut off by `Link.discardAssembly_frame`; in HUNT there is none. -/
theorem framingErrorAndGapDiscard : Obligations.FramingErrorAndGapDiscard := by
  intro s began hs cut
  have hhunt (h : s.link.assembly = []) : s.setLink s.link.discardAssembly = s := by
    rw [Link.discardAssembly_hunt h]; rfl
  have hcut (h : s.link.assembly ≠ []) : s.setLink s.link.discardAssembly = cut := by
    rw [Link.discardAssembly_frame h]; rfl
  refine ⟨fun h => State.next_outsideReset hs ?_, fun hl hk => State.next_outsideReset hs ?_,
    fun hk => State.next_outsideReset hs ?_, fun last hlast => State.next_outsideReset hs ?_⟩
  · obtain hdeaf | hk := h
    · exact if_neg (by simp [hdeaf])
    · rw [hhunt hk, ite_self]
  · rw [if_pos hl, hcut hk]
  · exact if_neg (by simp [Link.gapPassed_hunt hk])
  · have hk : s.link.assembly ≠ [] := by rintro h; rw [h] at hlast; cases hlast
    rw [hcut hk]
    refine if_congr ?_ rfl rfl
    rw [Link.gapPassed_iff, hlast]
    simp

end Sys2Proof.Machine

/-!
SUPPORT. The reply transmitter (R147, R153 to R155, R172): the reply begins after its delay, and its end or a collision
releases the line, with the reset that a RESTART asked for.
-/

namespace Sys2Proof.Machine

/-! ### The reply begins (R147, R154) -/

/-- A discard empties the assembly, and counts a frame where there was one. -/
theorem Link.discardAssembly_eq (k : Link) :
    k.discardAssembly =
      { k with
        assembly := []
        discarded := if k.assembly = [] then k.discarded else saturate 65535 k.discarded } := by
  by_cases h : k.assembly = []
  · rw [Link.discardAssembly_hunt h, if_pos h, ← h]
  · rw [Link.discardAssembly_frame h, if_neg h]

/-- The layout of a reply frame (R153, R175). -/
theorem Reply.frame_eq (address : BitVec 5) (r : Reply) :
    r.frame address =
      [0xC3] ++ r.body address
        ++ [(crc16 (r.body address)).extractLsb' 8 8, (crc16 (r.body address)).extractLsb' 0 8] := by
  rw [Reply.frame, crcBytes_eq]
  rfl

/-- Settles O12: the delay by `Link.replyDue_iff`, the frame in assembly by `Link.discardAssembly_eq`, the layout by
`Reply.frame_eq`. -/
theorem replyBeginsAfterItsDelay : Obligations.ReplyBeginsAfterItsDelay := by
  refine ⟨fun s x hs hx hwaits hdelay => State.next_outsideReset hs ?_, fun address r _ => r.frame_eq address⟩
  have hdue : s.link.replyDue s.now = true := Link.replyDue_iff.2 ⟨x, hx, hwaits, hdelay⟩
  simp only [hx, if_pos hdue, Link.discardAssembly_eq]
  rfl

/-! ### The line is released (R154, R155, R172) -/

/-- Byte `index` of the reply has gone out, and reads back as another one. -/
theorem Link.readsBackWrong_iff {k : Link} {now : Moment} {index : Nat} {back : Byte} :
    k.readsBackWrong now index back = true ↔
      ∃ x since sent, k.slot = some x ∧ x.sendingSince = some since
        ∧ (x.reply.frame k.address)[index]? = some sent ∧ back ≠ sent
        ∧ (index + 1) * 10 * 1000000 ≤ (now - since) * Config.bitRate k.rate := by
  unfold Link.readsBackWrong
  split
  · split
    · split <;> simp [*, Link.charsPassed]
    · simp [*]
  · simp [*]

section

variable {s : State} {x : ReplySlot}

theorem State.releaseLine_reply (hx : s.link.slot = some x) (hr : x.restart = false) :
    s.releaseLine = s.setLink { s.link with slot := none, listenFrom := s.now } := by
  simp only [State.releaseLine, hx, hr]
  exact if_neg Bool.false_ne_true

/-- A station held in reset drives no line, releases ATTN and sends no reply (R170). -/
theorem State.heldInReset_quiet (s : State) (c : ResetCause) :
    (s.heldInReset c).resetting = some c ∧ (s.heldInReset c).driven = 0 ∧ (s.heldInReset c).attn = false
      ∧ (s.heldInReset c).link.slot = none :=
  ⟨rfl, State.driven_of_free (State.claim_of_replicate rfl), State.attn_eq_false_of_no_entries rfl, rfl⟩

/-- After the reply of a RESTART the full reset begins (R172). -/
theorem State.releaseLine_restart (hs : s.resetting = none) (hx : s.link.slot = some x) (hr : x.restart = true) :
    ∃ u : State, s.releaseLine = u.heldInReset .request := by
  refine ⟨s.setLink { s.link with slot := none, listenFrom := s.now }, ?_⟩
  simp only [State.releaseLine, hx, hr, if_pos trivial, State.beginReset, State.setLink_resetting, hs]

end

/-- Settles O13: REPLY_END by `Link.replyOver_iff`, COLLISION by `Link.readsBackWrong_iff`, and the release with and
without a reset. -/
theorem replyEndAndCollisionReleaseTheLine : Obligations.ReplyEndAndCollisionReleaseTheLine := by
  intro s x since hs hx hsends
  have hreset {c : Instr} {u : State} (hu : u.resetting = none) (hux : u.link.slot = some x)
      (hexec : exec c s = .next u.releaseLine) (hr : x.restart = true) :
      ∃ t : State, exec c s = .next t ∧ t.resetting = some .request ∧ t.driven = 0 ∧ t.attn = false
        ∧ t.link.slot = none := by
    obtain ⟨v, hv⟩ := State.releaseLine_restart hu hux hr
    exact ⟨_, hexec.trans (congrArg Host.Outcome.next hv), v.heldInReset_quiet .request⟩
  refine ⟨fun hover => ?_, fun index sent back hsent hback hout => ?_⟩
  · have hend : s.link.replyOver s.now = true := Link.replyOver_iff.2 ⟨x, since, hx, hsends, hover⟩
    have hexec : exec .replyEnd s = .next s.releaseLine := State.next_outsideReset hs (if_pos hend)
    exact ⟨fun hr => hexec.trans (congrArg Host.Outcome.next (State.releaseLine_reply hx hr)),
      hreset hs hx hexec⟩
  · have hwrong : s.link.readsBackWrong s.now index back = true :=
      Link.readsBackWrong_iff.2 ⟨x, since, sent, hx, hsends, hsent, hback, hout⟩
    let counted : State := s.setLink { s.link with collision := saturate 65535 s.link.collision }
    have hexec : exec (.collision index back) s = .next counted.releaseLine :=
      State.next_outsideReset hs (if_pos hwrong)
    exact ⟨fun hr => hexec.trans (congrArg Host.Outcome.next (State.releaseLine_reply hx hr)),
      hreset (u := counted) hs hx hexec⟩

end Sys2Proof.Machine

/-!
SUPPORT. The request decoder on the oldest frame (R148 to R152): what it takes, repeats of both kinds, and the frames
that reach no block, with the codes and lengths of FIGURE 3 of 11_message_and_record_formats.md.
-/

namespace Sys2Proof.Machine

/-! ### The codes and lengths of FIGURE 3 (R177) -/

theorem Request.mem_all (r : Request) : r ∈ Request.all := by
  cases r <;> decide

theorem isRequestCode_iff {kind : Byte} : isRequestCode kind = true ↔ ∃ r : Request, kind = r.code := by
  rw [isRequestCode, List.any_eq_true]
  constructor
  · rintro ⟨r, -, h⟩; exact ⟨r, (beq_iff_eq.1 h).symm⟩
  · rintro ⟨r, rfl⟩; exact ⟨r, r.mem_all, beq_self_eq_true _⟩

/-- The payload lengths of a request, listed (FIGURE 3). -/
def Request.lengths : Request → List Nat
  | .identify | .readTime | .restart | .clear | .readLines | .watchStatus => [0]
  | .setLink | .linkStatus | .releaseLines | .readSegments | .start | .pause | .resume | .stop | .abort
  | .laneStatus => [1]
  | .joinGroups => [0, 1, 2, 3, 4]
  | .setGuard | .pageStatus | .enableWatches | .setNoticeMask => [2]
  | .readSteps | .setRing => [3]
  | .setTime | .eraseSteps | .trimRing => [4]
  | .poll => [5]
  | .setLane | .arm | .readRing => [6]
  | .claimLines => [16]
  | .setWatch => [18]
  | .storeSteps => (List.range 12).map fun n => 2 + 18 * (n + 1)
  | .setSegments => (List.range 25).map fun n => 1 + 7 * n

theorem Request.lengthOk_iff (r : Request) (n : Nat) : r.lengthOk n = true ↔ n ∈ r.lengths := by
  cases r with
  | storeSteps =>
    simp only [Request.lengthOk, Request.lengths, decide_eq_true_iff, List.mem_map, List.mem_range]
    constructor
    · rintro ⟨h20, h218, hwhole⟩
      exact ⟨(n - 2) / 18 - 1, by omega, by omega⟩
    · rintro ⟨i, hi, rfl⟩
      omega
  | setSegments =>
    simp only [Request.lengthOk, Request.lengths, decide_eq_true_iff, List.mem_map, List.mem_range]
    constructor
    · rintro ⟨h1, h169, hwhole⟩
      exact ⟨(n - 1) / 7, by omega, by omega⟩
    · rintro ⟨i, hi, rfl⟩
      omega
  | joinGroups =>
    simp only [Request.lengthOk, Request.lengths, decide_eq_true_iff, List.mem_cons, List.not_mem_nil, or_false]
    omega
  | _ => exact beq_iff_eq.trans List.mem_singleton.symm

theorem Request.groupAllowed_iff (r : Request) :
    r.groupAllowed = true ↔
      r ∈ [Request.start, .pause, .resume, .stop, .abort, .setTime, .clear, .enableWatches, .arm] := by
  cases r <;> decide

/-! ### The frame that the decoder takes (R148) -/

section

variable {s : State} {c : Instr} {f : Frame} {rest : List Frame} {r : Request} {h : Handler}

theorem exec_request_atHead (ha : s.atHead f rest) (hk : f.kind = r.code) :
    exec r.command s = .next ((s.popInbound rest).takeFrame r r.handler f) := by
  rw [exec_command, decoderStep_atHead ha hk]

theorem exec_badKind_atHead (ha : s.atHead f rest) (hk : ∀ r : Request, f.kind ≠ r.code) :
    exec .badKind s = .next ((s.popInbound rest).takeBadKind f) := by
  have hcode : ¬ isRequestCode f.kind = true := fun h => by
    obtain ⟨r, hr⟩ := isRequestCode_iff.1 h
    exact hk r hr
  refine State.next_outsideReset ha.1 ?_
  simp only [Link.nextFrame_of_atHead ha]
  exact if_neg hcode

theorem State.takeFrame_unicast (hu : f.addressing = .unicast) : s.takeFrame r h f = s.takeUnicast r h f := by
  simp only [State.takeFrame, hu]

theorem State.takeFrame_group (hu : f.addressing ≠ .unicast) : s.takeFrame r h f = s.takeGroup r h f := by
  unfold State.takeFrame
  split
  · contradiction
  all_goals rfl

theorem State.takeBadKind_group (hu : f.addressing ≠ .unicast) :
    s.takeBadKind f = if s.link.repeatsGroup f then s.discardRepeat else s := by
  unfold State.takeBadKind
  split
  · contradiction
  all_goals rfl

/-- With the slot filled or the queue empty the decoder takes nothing. -/
theorem Link.nextFrame_eq_none {k : Link} (h : k.slot ≠ none ∨ k.inbound = []) : k.nextFrame = none := by
  cases hn : k.nextFrame with
  | none => rfl
  | some taken =>
    obtain ⟨hslot, hinbound⟩ := Link.nextFrame_eq_some.1 hn
    obtain h | h := h
    · exact absurd hslot h
    · rw [h] at hinbound; cases hinbound

/-- A request's command changes nothing where no frame of its kind can be taken. -/
theorem exec_request_untaken (hn : ∀ f rest, s.link.nextFrame = some (f, rest) → f.kind ≠ r.code) :
    exec r.command s = .next s := by
  rw [exec_command]
  refine congrArg Host.Outcome.next (State.outsideReset_same fun _ => ?_)
  split
  · rename_i f rest hnext; exact if_neg (hn f rest hnext)
  · rfl

theorem exec_badKind_untaken
    (hn : ∀ f rest, s.link.nextFrame = some (f, rest) → ∃ r : Request, f.kind = r.code) :
    exec .badKind s = .next s := by
  refine congrArg Host.Outcome.next (State.outsideReset_same fun _ => ?_)
  split
  · rename_i f rest hnext; exact if_pos (isRequestCode_iff.2 (hn f rest hnext))
  · rfl

end

/-- Settles O16: nothing is taken with the slot filled or the queue empty, and no frame of another kind. -/
theorem decoderTakesOnlyTheOldestFrame : Obligations.DecoderTakesOnlyTheOldestFrame := by
  intro s c kind hc
  have huntaken (h : ∀ f rest, s.link.nextFrame = some (f, rest) → ¬ takesKind c f.kind) :
      exec c s = .next s := by
    obtain ⟨r, rfl, -⟩ | ⟨rfl, -⟩ := hc
    · exact exec_request_untaken fun f rest hnext hk => h f rest hnext (.inl ⟨r, rfl, hk⟩)
    · refine exec_badKind_untaken fun f rest hnext => ?_
      by_contra hno
      exact h f rest hnext (.inr ⟨rfl, not_exists.1 hno⟩)
  refine ⟨fun hnone => huntaken fun f rest hnext => ?_, fun f rest hinbound hkind =>
    huntaken fun g gs hnext => ?_⟩
  · rw [Link.nextFrame_eq_none hnone] at hnext; cases hnext
  · obtain ⟨-, hg⟩ := Link.nextFrame_eq_some.1 hnext
    rw [hinbound] at hg
    obtain ⟨rfl, -⟩ := List.cons.inj hg
    exact hkind

/-! ### Repeats (R149, R150) -/

section

variable {s : State} {f : Frame} {rest : List Frame} {r : Request} {h : Handler} {x : StoredReply}

theorem Link.repeatedReply_of_stored {k : Link} (htag : f.tag ≠ 0) (hx : k.unicastStore = some x)
    (hxt : x.tag = f.tag) (hxk : x.kind = f.kind) : k.repeatedReply f = some x.reply := by
  simp only [Link.repeatedReply, hx]
  exact if_pos ⟨htag, hxt.symm, hxk.symm⟩

theorem Link.repeatsGroup_of_stored {k : Link} (htag : f.tag ≠ 0) (hx : k.groupStore = some (f.tag, f.kind)) :
    k.repeatsGroup f = true := by
  rw [Link.repeatsGroup, decide_eq_true htag, decide_eq_true hx, Bool.and_self]

/-- A unicast repeat is answered from the store, whatever its kind. -/
theorem exec_takes_repeat {c : Instr} {stored : Reply} (ha : s.atHead f rest) (hc : takesKind c f.kind)
    (hu : f.addressing = .unicast) (hr : s.link.repeatedReply f = some stored) :
    exec c s = .next ((s.popInbound rest).answerRepeat f stored) := by
  have hr' : (s.popInbound rest).link.repeatedReply f = some stored := hr
  obtain ⟨r, rfl, hk⟩ | ⟨rfl, hk⟩ := hc
  · rw [exec_request_atHead ha hk, State.takeFrame_unicast hu]
    simp only [State.takeUnicast, hr']
  · rw [exec_badKind_atHead ha hk]
    simp only [State.takeBadKind, hu, hr']

/-- A group or broadcast repeat is discarded and counted, whatever its kind. -/
theorem exec_takes_groupRepeat {c : Instr} (ha : s.atHead f rest) (hc : takesKind c f.kind)
    (hu : f.addressing ≠ .unicast) (hr : s.link.repeatsGroup f = true) :
    exec c s = .next (s.popInbound rest).discardRepeat := by
  have hr' : (s.popInbound rest).link.repeatsGroup f = true := hr
  obtain ⟨r, rfl, hk⟩ | ⟨rfl, hk⟩ := hc
  · rw [exec_request_atHead ha hk, State.takeFrame_group hu, State.takeGroup, if_pos hr']
  · rw [exec_badKind_atHead ha hk, State.takeBadKind_group hu, if_pos hr']

end

/-- Settles O14: both kinds of repeat, whichever command takes the frame. -/
theorem repeatsExecuteNothing : Obligations.RepeatsExecuteNothing :=
  ⟨fun _ _ _ _ _ ha hc hu htag hx hxt hxk =>
      exec_takes_repeat ha hc hu (Link.repeatedReply_of_stored htag hx hxt hxk),
    fun _ _ _ _ ha hc hu htag hx => exec_takes_groupRepeat ha hc hu (Link.repeatsGroup_of_stored htag hx)⟩

/-! ### Frames that reach no block (R151) -/

section

variable {s : State} {f : Frame} {rest : List Frame} {r : Request}

theorem State.popInbound_answer (s : State) (f : Frame) (rest : List Frame) (restart : Bool) (p : List Byte) :
    (s.popInbound rest).answer f restart p = s.answered f rest restart p := rfl

theorem exec_unknownKind (ha : s.atHead f rest) (hu : f.addressing = .unicast) (hr : s.link.isRepeat f = false)
    (hk : ∀ r : Request, f.kind ≠ r.code) : exec .badKind s = .next (s.answered f rest false [0x01]) := by
  have hnew : (s.popInbound rest).link.repeatedReply f = none := Link.repeatedReply_eq_none s.link f hu hr
  rw [exec_badKind_atHead ha hk]
  simp only [State.takeBadKind, hu, hnew, State.popInbound_answer]
  rfl

theorem exec_wrongLength (ha : s.atHead f rest) (hu : f.addressing = .unicast) (hr : s.link.isRepeat f = false)
    (hk : f.kind = r.code) (hl : r.lengthOk f.payload.length = false) :
    exec r.command s = .next (s.answered f rest false [0x02]) := by
  have hnew : (s.popInbound rest).link.repeatedReply f = none := Link.repeatedReply_eq_none s.link f hu hr
  rw [exec_request_atHead ha hk, State.takeFrame_unicast hu]
  simp only [State.takeUnicast, hnew, hl, State.popInbound_answer]
  exact congrArg Host.Outcome.next (if_neg Bool.false_ne_true)

/-- A group or broadcast frame that is unfit leaves the queue, and that is all. -/
theorem exec_unfitGroup {c : Instr} (ha : s.atHead f rest) (hc : takesKind c f.kind)
    (hu : f.addressing ≠ .unicast) (hr : s.link.isRepeat f = false)
    (hunfit : ∀ r : Request, f.kind = r.code → r.groupAllowed = false ∨ r.lengthOk f.payload.length = false) :
    exec c s = .next (s.popInbound rest) := by
  have hnew : ¬ (s.popInbound rest).link.repeatsGroup f = true := by
    rw [Bool.not_eq_true]
    exact (Link.repeatsGroup_eq_isRepeat s.link f hu).trans hr
  obtain ⟨r, rfl, hk⟩ | ⟨rfl, hk⟩ := hc
  · have hno : ¬ (r.groupAllowed && r.lengthOk f.payload.length) = true := by
      rw [Bool.not_eq_true, Bool.and_eq_false_iff]
      exact hunfit r hk
    rw [exec_request_atHead ha hk, State.takeFrame_group hu, State.takeGroup, if_neg hnew, if_neg hno]
  · rw [exec_badKind_atHead ha hk, State.takeBadKind_group hu, if_neg hnew]

end

/-- Settles O15: each unfit frame by its own lemma, FIGURE 3 as the list of all requests with code and lengths. -/
theorem unfitFramesReachNoBlock : Obligations.UnfitFramesReachNoBlock := by
  refine ⟨fun s f rest ha hu hr => ⟨exec_unknownKind ha hu hr, fun r hk hl => exec_wrongLength ha hu hr hk hl⟩,
    fun s c f rest ha hc hu hr hunfit => exec_unfitGroup ha hc hu hr hunfit, Request.groupAllowed_iff, ?_⟩
  intro figure3
  have hfigure : figure3 = Request.all.map fun r => (r, r.code, r.lengths) := rfl
  rw [hfigure]
  refine ⟨fun r => ?_, fun row hrow => ?_⟩
  · rw [List.map_map]
    exact List.mem_map.2 ⟨r, r.mem_all, rfl⟩
  · obtain ⟨r, -, rfl⟩ := List.mem_map.1 hrow
    exact ⟨rfl, r.lengthOk_iff⟩

end Sys2Proof.Machine

/-!
SUPPORT. The requests to the link blocks (R157 to R159): SET_LINK, LINK_STATUS and JOIN_GROUPS, each by the equation of
its handler.
-/

namespace Sys2Proof.Machine

section

variable {s : State} {f : Frame}

/-! ### LINK_STATUS (R159) -/

theorem onLinkStatus_read (h : byteAt f.payload 0 = 0) : onLinkStatus f s = (s, okFields (countFields s.link)) :=
  if_pos h

theorem onLinkStatus_clear (h : byteAt f.payload 0 = 1) :
    onLinkStatus f s = (s.setLink s.link.clearCounts, okFields (countFields s.link)) := by
  rw [onLinkStatus, h]
  rfl

theorem onLinkStatus_refused (h : 1 < (byteAt f.payload 0).toNat) : onLinkStatus f s = (s, [0x03]) := by
  have h0 : byteAt f.payload 0 ≠ 0 := fun e => by rw [e] at h; exact absurd h (by decide)
  have h1 : byteAt f.payload 0 ≠ 1 := fun e => by rw [e] at h; exact absurd h (by decide)
  rw [onLinkStatus, if_neg h0, if_neg h1]
  rfl

/-! ### JOIN_GROUPS (R158) -/

/-- A group number at fault: above 15, or equal to an earlier one. -/
def groupAtFault (p : List Byte) (i : Nat) : Prop :=
  15 < (byteAt p i).toNat ∨ ∃ j, j < i ∧ byteAt p j = byteAt p i

/-- The numbers before a position are those of the smaller positions. -/
theorem mem_take_iff_byteAt {p : List Byte} {i : Nat} (hi : i < p.length) (b : Byte) :
    b ∈ p.take i ↔ ∃ j, j < i ∧ byteAt p j = b := by
  rw [List.mem_take_iff_getElem]
  constructor
  · rintro ⟨j, hj, rfl⟩
    have hlt : j < p.length := by omega
    exact ⟨j, by omega, List.getD_eq_getElem p 0 hlt⟩
  · rintro ⟨j, hj, rfl⟩
    have hlt : j < p.length := by omega
    exact ⟨j, by omega, (List.getD_eq_getElem p 0 hlt).symm⟩

/-- The check finds the first number at fault, if there is one. -/
theorem groupFault_iff (p : List Byte) :
    (∀ i, groupFault p = some i ↔ i < p.length ∧ groupAtFault p i ∧ ∀ j, j < i → ¬ groupAtFault p j)
      ∧ (groupFault p = none ↔ ∀ i, i < p.length → ¬ groupAtFault p i) :=
  find_range_of_test fun i hi => by
    rw [Bool.or_eq_true, decide_eq_true_iff, List.contains_iff_mem, mem_take_iff_byteAt hi]
    rfl

/-- The mask has the bits of the numbers given. -/
theorem groupMask_bit (p : List Byte) {n : Nat} (hn : n < 16) :
    (groupMask p).getLsbD n = true ↔ byteOf n ∈ p := by
  have hnumber (g : Byte) : n = g.toNat ↔ byteOf n = g := by
    rw [← BitVec.toNat_inj, byteOf, BitVec.toNat_ofNat, Nat.mod_eq_of_lt (by omega)]
  have hbit (g : Byte) : (1#16 <<< g.toNat).getLsbD n = true ↔ byteOf n = g := by
    rw [← hnumber, ← BitVec.twoPow_eq, BitVec.getLsbD_twoPow]
    simp
    omega
  have hfold (m : BitVec 16) :
      (p.foldl (fun m g => m ||| (1#16 <<< g.toNat)) m).getLsbD n = true ↔ m.getLsbD n = true ∨ byteOf n ∈ p := by
    induction p generalizing m with
    | nil => simp
    | cons g gs ih =>
      rw [List.foldl_cons, ih, BitVec.getLsbD_or, Bool.or_eq_true, hbit, List.mem_cons, or_assoc]
  rw [groupMask, hfold]
  simp

theorem onJoinGroups_refused {i : Nat} (hi : i < f.payload.length) (hbad : groupAtFault f.payload i)
    (hfirst : ∀ j, j < i → ¬ groupAtFault f.payload j) : onJoinGroups f s = (s, [0x03, byteOf i]) := by
  simp only [onJoinGroups, ((groupFault_iff f.payload).1 i).2 ⟨hi, hbad, hfirst⟩]
  rfl

theorem onJoinGroups_joined (h : ∀ i, i < f.payload.length → ¬ groupAtFault f.payload i) :
    onJoinGroups f s =
      (s.setLink { s.link with groups := groupMask f.payload },
       [0x00] ++ leBytes 2 (groupMask f.payload).toNat) := by
  simp only [onJoinGroups, (groupFault_iff f.payload).2.2 h]
  rfl

end

/-- Settles O21: the three requests by the equations of their handlers, the mask by `groupMask_bit`. -/
theorem linkRequestsAnswer : Obligations.LinkRequestsAnswer := by
  refine ⟨fun s f rest => ⟨fun he => ?_, fun he => ⟨fun h => ?_, fun h => ?_, fun h => ?_⟩⟩,
    fun s f rest he => ⟨fun i hi hbad hfirst => ?_, fun h => ⟨groupMask f.payload, ?_, ?_⟩⟩⟩
  · exact exec_answered he rfl (by decide) rfl
  · exact exec_answered he rfl (by decide) (onLinkStatus_read h)
  · exact exec_answered he rfl (by decide) (onLinkStatus_clear h)
  · exact exec_answered he rfl (by decide) (onLinkStatus_refused h)
  · exact exec_answered he rfl (by decide) (onJoinGroups_refused hi hbad hfirst)
  · exact fun n hn => groupMask_bit f.payload hn
  · exact exec_answered he rfl (by decide) (onJoinGroups_joined h)

end Sys2Proof.Machine

/-!
SUPPORT. What station control does to several blocks as one change (10_time_guard_and_restarts.md): the guard expiry by
the turns that abort the lanes, and SET_TIME, whose triggers are judged lane by lane and whose holdoffs watch by watch.
-/

namespace Sys2Proof.Machine

/-! ### The guard expiry (R168) -/

/-- The reports of several ends leave the timestamp alone. -/
theorem endReports_foldl_timestamp (result : Result) (ls : List LaneId) (s : State) :
    (ls.foldl (fun r l => r.endReports l result) s).timestamp = s.timestamp :=
  (LaneWork.foldl _ (fun u l => (u.recordEnd_work l result).trans (State.raiseLane_work _ _ _ _)) ls s).timestamp

/-- Settles O49: the turns that abort every lane by `abortTurns_spec`, then the GUARD record and GUARD_EXPIRED. -/
theorem guardExpiryAbortsTheLanes : Obligations.GuardExpiryAbortsTheLanes := by
  intro s since hs hguard hpassed busy
  have hdue : s.guardDue = true := State.guardDue_iff.2 ⟨since, hguard, hpassed⟩
  obtain ⟨hw, hrefs, hrep, hlane⟩ :=
    abortTurns_spec (fun _ => true) .abortedGuard (s.setGuard .expired) s rfl rfl ⟨rfl, rfl⟩
  refine ⟨s.expireGuard, State.next_outsideReset hs (if_pos hdue), s.expireGuard_work.frame, ?_, fun p hp => ?_,
    fun l => ?_⟩
  · refine State.raise_congr _ _ (State.takeRecord_congr _ hrep ?_)
    exact hw.timestamp.trans (endReports_foldl_timestamp _ _ s).symm
  · simp only [State.expireGuard, State.raise_refCount, State.takeRecord_refCount]
    exact hrefs p hp
  · simp only [State.expireGuard, State.raise_lane, State.takeRecord_lane]
    exact hlane l

/-! ### The time triggers after a SET_TIME (R93, R165) -/

/-- The trigger of a lane fires when the timestamp `loaded` is loaded. -/
def Lane.firesAt (x : Lane) (loaded : Stamp) : Bool :=
  decide (x.state = .armed) && x.triggerArmed && atOrBefore x.startTime loaded

/-- One lane's turn when the triggers are judged anew. -/
def triggerTurn (loaded : Stamp) (l : LaneId) (s : State) : State :=
  if (s.lane l).firesAt loaded then s.startLane l .time else s

/-- What the judging leaves of lane `l`: a start with source TIME, or nothing. -/
def State.takesTrigger (loaded : Stamp) (t s : State) (l : LaneId) : Prop :=
  ((s.lane l).firesAt loaded = false → t.lane l = s.lane l)
    ∧ ∀ st, (s.lane l).firesAt loaded = true → s.slot (s.lane l).firstSlot = some st →
        (t.lane l).startedBy (s.lane l) .time st s.now

section

variable (loaded : Stamp) (s : State) (l : LaneId)

/-- A lane in order whose trigger fires is ARMED and has the source TIME (R74). -/
theorem Lane.ok.armed_of_firesAt {x : Lane} (h : x.ok) (hf : x.firesAt loaded = true) :
    x.state = .armed ∧ x.hasSource .time = true := by
  obtain ⟨-, -, -, -, -, htrigger, -⟩ := h
  simp only [Lane.firesAt, Bool.and_eq_true] at hf
  obtain ⟨⟨-, harmed⟩, -⟩ := hf
  exact htrigger harmed

theorem triggerTurn_fires (h : (s.lane l).ok) (hf : (s.lane l).firesAt loaded = true) :
    triggerTurn loaded l s = s.takeStart l .time := by
  obtain ⟨harmed, hsrc⟩ := h.armed_of_firesAt loaded hf
  exact (if_pos hf).trans (State.startLane_taken harmed hsrc)

theorem triggerTurn_quiet (hf : (s.lane l).firesAt loaded = false) : triggerTurn loaded l s = s :=
  if_neg (by rw [hf]; decide)

theorem triggerTurn_work : LaneWork s (triggerTurn loaded l s) := by
  unfold triggerTurn; split
  · exact s.startLane_work l .time
  · exact .refl s

theorem triggerTurn_other (k : LaneId) (h : k ≠ l) : (triggerTurn loaded l s).lane k = s.lane k := by
  unfold triggerTurn; split
  · exact s.startLane_other .time h
  · rfl

theorem triggerTurn_refs : (triggerTurn loaded l s).refs = s.refs := by
  unfold triggerTurn State.startLane
  split
  · split
    · obtain ⟨hframe, -⟩ := s.takeStart_spec l .time
      rw [hframe]
    · rfl
  · rfl

theorem triggerTurn_takesTrigger (h : (s.lane l).ok) : (triggerTurn loaded l s).takesTrigger loaded s l := by
  refine ⟨fun hf => by rw [triggerTurn_quiet loaded s l hf], fun st hf hst => ?_⟩
  obtain ⟨-, -, -, hstarted⟩ := s.takeStart_spec l .time
  rw [triggerTurn_fires loaded s l h hf]
  exact hstarted st hst

/-- The model's judging is these turns, and counts the lanes that fire. -/
theorem judgeTrigger_eq {n : Nat} (h : s.timestamp = loaded) :
    judgeTrigger (s, n) l = (triggerTurn loaded l s, n + if (s.lane l).firesAt loaded then 1 else 0) := by
  subst h
  have hfires : (s.lane l).firesAt s.timestamp = true ↔
      (s.lane l).state = .armed ∧ (s.lane l).triggerArmed = true
        ∧ atOrBefore (s.lane l).startTime s.timestamp = true := by
    simp [Lane.firesAt, and_assoc]
  unfold triggerTurn
  by_cases hf : (s.lane l).firesAt s.timestamp = true
  · rw [if_pos hf, if_pos hf]; exact if_pos (hfires.1 hf)
  · rw [if_neg hf, if_neg hf]; exact if_neg (mt hfires.2 hf)

/-- Lane after lane, told of a state `base` that the lanes to come are as in. -/
theorem judgeTrigger_foldl (base : State) {ls : List LaneId} (hn : ls.Nodup) (u : State) (n : Nat)
    (hstamp : u.timestamp = loaded) (hl : ∀ k ∈ ls, u.lane k = base.lane k) :
    ls.foldl judgeTrigger (u, n) =
      (ls.foldl (fun u l => triggerTurn loaded l u) u, n + ls.countP fun l => (base.lane l).firesAt loaded) := by
  induction ls generalizing u n with
  | nil => rfl
  | cons l ls ih =>
    obtain ⟨hnot, hn⟩ := List.nodup_cons.1 hn
    have hrest (k : LaneId) (hk : k ∈ ls) : (triggerTurn loaded l u).lane k = base.lane k :=
      (triggerTurn_other loaded u l k (by rintro rfl; exact hnot hk)).trans (hl k (List.mem_cons_of_mem _ hk))
    rw [List.foldl_cons, judgeTrigger_eq loaded u l hstamp,
      ih hn _ _ ((triggerTurn_work loaded u l).timestamp.trans hstamp) hrest, hl l (List.mem_cons_self ..),
      List.countP_cons, List.foldl_cons, ← Nat.add_assoc, Nat.add_right_comm]

/-- The turns of all lanes, lane 0 first: what they leave at each lane, and their reports in lane order, told of a
state `r` that stands for `s` in what reports read. -/
theorem triggerTurns_spec (hok : s.lanesOk) (r : State) (hlanes : r.lanes = s.lanes)
    (hstamp : r.timestamp = s.timestamp) (hsame : s.reportsAs r) :
    let t := laneIds.foldl (fun u l => triggerTurn loaded l u) s
    LaneWork s t ∧ t.refs = s.refs
      ∧ t.reportsAs ((laneIds.filter fun l => (s.lane l).firesAt loaded).foldl
          (fun r l => r.startReports l (some .time)) r)
      ∧ ∀ l, t.takesTrigger loaded s l := by
  have hfold := lanes_foldl (triggerTurn loaded) (fun _ x => x.firesAt loaded)
    (fun r l => r.startReports l (some .time)) (fun b t l => t.takesTrigger loaded b l) s
    (fun u l => triggerTurn_work loaded u l) (fun u l k hk => triggerTurn_other loaded u l k hk)
    (fun u v l hu hv hvl hul hrep hfires => ?_) (fun u l hul hquiet => ?_) (fun u l => by simp) (fun u l => ?_)
    (fun u l hul hslot hnow => ?_) (fun t u l htu h => ?_) laneIds (by decide) s r rfl rfl rfl
    hstamp hlanes (fun _ _ => rfl) hsame
  · obtain ⟨hw, hrep, -, hafter⟩ := hfold
    have hrefs (ls : List LaneId) (u : State) : (ls.foldl (fun u l => triggerTurn loaded l u) u).refs = u.refs := by
      induction ls generalizing u with
      | nil => rfl
      | cons l ls ih => exact (ih _).trans (triggerTurn_refs loaded u l)
    exact ⟨hw, hrefs laneIds s, hrep, fun l => hafter l (mem_laneIds l)⟩
  · obtain ⟨-, -, hstarted, -⟩ := u.takeStart_spec l .time
    have hreports := State.startReports_congr (l := l) (some .time) hrep (hu.trans hv.symm)
      (by rw [hul, hvl]) (by rw [hul, hvl])
    rw [triggerTurn_fires loaded u l (hul ▸ hok l) (hul ▸ hfires)]
    exact ⟨hstarted.1.trans hreports.1, hstarted.2.trans hreports.2⟩
  · rw [triggerTurn_quiet loaded u l (hul ▸ hquiet)]; exact ⟨rfl, rfl⟩
  · rw [u.startReports_frame]
  · have h := triggerTurn_takesTrigger loaded u l (hul ▸ hok l)
    unfold State.takesTrigger at h ⊢
    rwa [hul, hslot, hnow] at h
  · unfold State.takesTrigger at h ⊢
    rwa [← htu]

end

/-! ### The holdoffs after a SET_TIME (R108) -/

/-- A watch whose running holdoff is judged anew at a timestamp. -/
def Watch.judged (x : Watch) (stamp : Stamp) : Watch :=
  match x.holdoffEnd with
  | some e => if atOrBefore e stamp then { x with holdoffEnd := none } else x
  | none => x

/-- One watch is judged, and nothing else changes. -/
theorem State.judgeHoldoff_spec (s : State) (w : WatchId) :
    s.judgeHoldoff w = { s with watches := (s.judgeHoldoff w).watches }
      ∧ (s.judgeHoldoff w).watch w = (s.watch w).judged s.timestamp
      ∧ ∀ k, k ≠ w → (s.judgeHoldoff w).watch k = s.watch k := by
  unfold State.judgeHoldoff Watch.judged
  cases hend : (s.watch w).holdoffEnd with
  | none => exact ⟨rfl, rfl, fun _ _ => rfl⟩
  | some e =>
    dsimp only
    split
    · exact ⟨rfl, State.watch_setWatch_self _ _ _, fun k hk => State.watch_setWatch_ne _ _ (Ne.symm hk)⟩
    · exact ⟨rfl, rfl, fun _ _ => rfl⟩

/-- Several watches are judged, each as it was before the first. -/
theorem judgeHoldoff_foldl {ws : List WatchId} (hn : ws.Nodup) (s : State) :
    ws.foldl State.judgeHoldoff s = { s with watches := (ws.foldl State.judgeHoldoff s).watches }
      ∧ (∀ w ∈ ws, (ws.foldl State.judgeHoldoff s).watch w = (s.watch w).judged s.timestamp)
      ∧ ∀ w, w ∉ ws → (ws.foldl State.judgeHoldoff s).watch w = s.watch w := by
  induction ws generalizing s with
  | nil => exact ⟨rfl, nofun, fun _ _ => rfl⟩
  | cons w ws ih =>
    obtain ⟨hnot, hn⟩ := List.nodup_cons.1 hn
    obtain ⟨hframe, hself, hothers⟩ := s.judgeHoldoff_spec w
    obtain ⟨hrest, hmem, hleft⟩ := ih hn (s.judgeHoldoff w)
    rw [List.foldl_cons]
    generalize ws.foldl State.judgeHoldoff (s.judgeHoldoff w) = t at hrest hmem hleft ⊢
    have hstamp : (s.judgeHoldoff w).timestamp = s.timestamp := by rw [hframe]
    refine ⟨?_, fun k hk => ?_, fun k hk => ?_⟩
    · generalize t.watches = ws' at hrest ⊢
      rw [hrest, hframe]
    · rcases List.mem_cons.1 hk with rfl | hk
      · rw [hleft k hnot, hself]
      · rw [hmem k hk, hothers k fun e => hnot (e ▸ hk), hstamp]
    · obtain ⟨hkw, hk⟩ := not_or.1 (mt List.mem_cons.2 hk)
      rw [hleft k hk, hothers k hkw]

/-! ### SET_TIME (R164, R165) -/

/-- SET_TIME by the turns of the lanes, then of the watches. -/
theorem onSetTime_eq {f : Frame} (s : State) {loaded : Stamp} (h : loaded = wordAt f.payload 0 + s.elapsedSince f) :
    onSetTime f s =
      (watchIds.foldl State.judgeHoldoff
          (laneIds.foldl (fun u l => triggerTurn loaded l u) { s with timestamp := loaded }),
        okFields (wordBytes loaded ++ [byteOf (countLanes fun l => (s.lane l).firesAt loaded)])) := by
  subst h
  have hjudged := judgeTrigger_foldl (wordAt f.payload 0 + s.elapsedSince f) s (ls := laneIds) (by decide)
    { s with timestamp := wordAt f.payload 0 + s.elapsedSince f } 0 rfl fun _ _ => rfl
  simp only [onSetTime, State.judgeTriggers, hjudged, Nat.zero_add, countLanes]

/-- Settles O22: the turns of the lanes by `triggerTurns_spec`, those of the watches by `judgeHoldoff_foldl`. -/
theorem setTimeLoadsAndJudges : Obligations.SetTimeLoadsAndJudges := by
  intro s f rest he hok loaded fires
  obtain ⟨hw, hrefs, hrep, hlane⟩ := triggerTurns_spec loaded { s.popInbound rest with timestamp := loaded } hok
    { s with timestamp := loaded } rfl rfl ⟨rfl, rfl⟩
  have hrequest := onSetTime_eq (f := f) (s.popInbound rest) (loaded := loaded) rfl
  generalize laneIds.foldl (fun u l => triggerTurn loaded l u) { s.popInbound rest with timestamp := loaded } = u
    at hw hrefs hrep hlane hrequest
  obtain ⟨hwatches, hjudged, -⟩ := judgeHoldoff_foldl (ws := watchIds) (by decide) u
  generalize watchIds.foldl State.judgeHoldoff u = v at hwatches hjudged hrequest
  have hframe := hw.frame
  rw [hrefs] at hframe
  have hu : u = State.popInbound
      { s with timestamp := loaded, lanes := u.lanes, ring := u.ring, notices := u.notices } rest := hframe
  have hv : v = State.popInbound
      { s with timestamp := loaded, lanes := u.lanes, watches := v.watches, ring := u.ring, notices := u.notices }
      rest := by
    generalize v.watches = ws at hwatches ⊢
    rw [hwatches, hu]; rfl
  refine ⟨{ s with
      timestamp := loaded, lanes := u.lanes, watches := v.watches, ring := u.ring, notices := u.notices },
    exec_concluded he (by decide) (hrequest.trans (Prod.ext hv rfl)), rfl, hrep, fun l => (hlane l).1,
    fun l st hf hst => (hlane l).2 st hf hst, fun w => ?_⟩
  have hwatch := hjudged w (mem_watchIds w)
  rw [hw.watch, hw.timestamp] at hwatch
  exact hwatch

end Sys2Proof.Machine

/-!
SUPPORT. The requests to station control that replace what they name (10_time_guard_and_restarts.md): SET_GUARD, RESTART
and CLEAR.
-/

namespace Sys2Proof.Machine

/-- Settles O23: SET_GUARD by the block it replaces, RESTART by the mark at its reply. -/
theorem setGuardAndRestartAnswer : Obligations.SetGuardAndRestartAnswer :=
  fun s _ rest => ⟨fun he => exec_answered he rfl (by decide) rfl,
    fun he => congrArg Host.Outcome.next (decoderStep_answered (t := s.popInbound rest) he rfl rfl rfl)⟩

/-- Settles O24: the emptied blocks by what they read. -/
theorem clearEmptiesTheStation : Obligations.ClearEmptiesTheStation :=
  fun s _ _ he => ⟨s.cleared, exec_concluded he (by decide) rfl, rfl, State.refCount_of_replicate rfl,
    State.claim_of_replicate rfl, State.lane_of_replicate rfl, State.watch_of_replicate rfl,
    State.attn_eq_false_of_no_entries rfl⟩

end Sys2Proof.Machine

/-!
SUPPORT. The idle step, and the full reset from its causes to its end (10_time_guard_and_restarts.md, R170 to R172).
-/

namespace Sys2Proof.Machine

/-! ### The idle step -/

section

variable {s : State}

theorem idle_of_nothing_due (h : s.dueEvents = []) : idle s = .next s.tick := by
  unfold idle; rw [h]

/-- With events due, one of them is executed, and the free choices are counted on. -/
theorem idle_of_due (h : s.dueEvents ≠ []) :
    ∃ c ∈ s.dueEvents, idle s = exec c { s with freeIx := s.freeIx + 1 } := by
  unfold idle
  split
  next hnone => exact absurd hnone h
  next c hone => exact ⟨c, hone ▸ List.mem_singleton.2 rfl, rfl⟩
  next c d rest hseveral =>
    have hlt : Config.freeChoice s.freeIx % (rest.length + 2) < (c :: d :: rest).length :=
      Nat.mod_lt _ (Nat.succ_pos _)
    refine ⟨_, ?_, rfl⟩
    rw [hseveral, List.getD_eq_getElem _ _ hlt]
    exact List.getElem_mem hlt

end

/-- Settles O2: an idle step with nothing due, and one with events due. -/
theorem idleStepPassesTimeOrTakesADueEvent : Obligations.IdleStepPassesTimeOrTakesADueEvent := by
  refine ⟨fun s hp hdue => ?_, fun s hp hdue => ?_⟩
  · rw [step_of_empty hp, idle_of_nothing_due hdue, State.tick]
    rcases s.resetting with _ | _ | _ | _ <;> rfl
  · obtain ⟨c, hc, hidle⟩ := idle_of_due hdue
    exact ⟨c, hc, s.freeIx + 1, (step_of_empty hp).trans hidle⟩

/-! ### The causes of a full reset (R170) -/

section

variable {s : State}

/-- A cause begins a reset outside one, and in a REQUEST reset, which is over before it acts. -/
theorem State.beginReset_begins (h : s.resetting = none ∨ s.resetting = some .request) (c : ResetCause) :
    s.beginReset c = s.heldInReset c := by
  unfold State.beginReset
  rcases h with h | h <;> rw [h]

/-- A cause joins a POWER or PIN reset. -/
theorem State.beginReset_joins (h : s.resetting = some .power ∨ s.resetting = some .pin) (c : ResetCause) :
    s.beginReset c = s := by
  unfold State.beginReset
  rcases h with h | h <;> rw [h]

end

/-- Settles O4: the station held in reset by what its emptied blocks read. -/
theorem resetCausesHoldTheStation : Obligations.ResetCausesHoldTheStation := by
  refine fun s => ⟨fun h => ?_, fun h => ⟨?_, ?_⟩⟩
  · intro p hp
    have hexec : exec p.1 s = .next (s.heldInReset p.2) := by
      rw [← State.beginReset_begins h]
      rcases List.mem_pair.1 hp with rfl | rfl <;> rfl
    obtain ⟨hcause, hdriven, hattn, hslot⟩ := s.heldInReset_quiet p.2
    exact ⟨_, hexec, hcause, rfl, rfl, hdriven, hattn, hslot, rfl, rfl, rfl, rfl, rfl,
      fun l => congrArg Lane.state (State.lane_of_replicate rfl l)⟩
  · exact congrArg Host.Outcome.next (State.beginReset_joins h _)
  · exact congrArg Host.Outcome.next (State.beginReset_joins h _)

/-! ### The end of a full reset (R171) -/

section

variable {s : State} {cause : ResetCause} (adr : BitVec 5) (spd : BitVec 2) (o : Outside)

theorem exec_fullResetEnd (h : s.resetting = some cause) :
    exec (.fullResetEnd adr spd o) s = .next (s.afterReset cause adr spd o) := by
  change execFullResetEnd adr spd o s = _
  unfold execFullResetEnd; rw [h]

theorem exec_fullResetEnd_outside (h : s.resetting = none) : exec (.fullResetEnd adr spd o) s = .next s := by
  change execFullResetEnd adr spd o s = _
  unfold execFullResetEnd; rw [h]

/-- With no line driven, a line stands at the outside's level or high (R17). -/
theorem standingLevels_undriven : standingLevels o 0 0 = (o.held &&& o.levels) ||| ~~~o.held := by
  have hhigh : ~~~(0 : Lines) ||| 0 = BitVec.allOnes 40 := by decide
  rw [standingLevels, hhigh, BitVec.and_allOnes]

/-- The first notice of a station is STATION_RESTARTED (R139). -/
theorem NoticeSet.cleared_raise_stationRestarted (d : NoticeDetail) :
    NoticeSet.cleared.raise .stationRestarted d =
      { entries := [{ serial := 1, key := .stationRestarted, count := 1, detail := d, reported := false }],
        nextSerial := 2, mask := 0x0FFF } := by
  have hrecords : NoticeSet.cleared.records .stationRestarted = true := NoticeSet.records_iff.2 (.inr rfl)
  exact if_pos hrecords

/-- All that the end of a reset leaves (R171). -/
theorem State.afterReset_eq :
    s.afterReset cause adr spd o =
      { State.blank with
        pending := s.pending, now := s.now, freeIx := s.freeIx
        link := { Link.cleared with address := adr, rate := spd, listenFrom := s.now }
        outside := o, sampled := (o.held &&& o.levels) ||| ~~~o.held, sampleAt := s.now
        notices :=
          { entries :=
              [{ serial := 1, key := .stationRestarted, count := 1, detail := .cause cause, reported := false }],
            nextSerial := 2, mask := 0x0FFF } } := by
  rw [← standingLevels_undriven, ← NoticeSet.cleared_raise_stationRestarted]
  rfl

end

/-- Settles O5: the blocks at their values, and the first sample by `standingLevels_undriven`. -/
theorem fullResetEndSetsEveryBlock : Obligations.FullResetEndSetsEveryBlock := by
  intro s cause adr spd o h
  refine ⟨s.afterReset cause adr spd o, exec_fullResetEnd adr spd o h, ?_, ?_⟩
  · rw [State.afterReset_eq]; rfl
  · rw [State.afterReset_eq]; rfl

/-- Settles O7: a request's step and an event alike act outside a reset alone, the end of a reset in one alone. -/
theorem onlyResetEventsActInAReset : Obligations.OnlyResetEventsActInAReset := by
  refine fun s c => ⟨?_, fun adr spd o h => exec_fullResetEnd_outside adr spd o h⟩
  intro hs
  have hlost (f : State → State) : (.next (s.outsideReset f) : Host.Outcome State Fault Refusal) = .next s :=
    congrArg Host.Outcome.next (s.outsideReset_some f hs)
  induction c using Instr.byRequest with
  | request r => exact fun _ _ _ => (exec_command r s).trans (hlost _)
  | powerReset => exact fun hpower => absurd rfl hpower
  | resetPin => exact fun _ hpin => absurd rfl hpin
  | fullResetEnd adr spd o => exact fun _ _ hend => absurd rfl (hend adr spd o)
  | _ => exact fun _ _ _ => hlost _

/-! ### The invariants at reset (R171) -/

/-- The state after reset is what the end of a POWER reset leaves, with straps that give address 1 and lines that the
outside leaves alone. -/
theorem State.reset_eq_afterReset :
    State.reset = State.blank.afterReset .power 1 0 { held := 0, levels := 0 } := by
  rw [State.afterReset_eq]
  rfl

/-- Settles O59: lanes, store and lists as in a blank station, times and link as at the end of a reset, and one entry
in the notice set. -/
theorem invariantsHoldAtReset : Obligations.InvariantsHoldAtReset := by
  have hsteady : State.reset.Steady True none := .of_blank rfl rfl rfl
  have htimely : State.reset.Timely := State.reset_eq_afterReset ▸ State.Timely.afterReset _ _ _ _ _
  have hlink : State.reset.link.ok := State.reset_eq_afterReset ▸ State.afterReset_linkOk _ _ _ _ _
  refine ⟨hsteady.lanes, hsteady.refs, hsteady.store trivial, State.reset.listsOk_iff.2 (hsteady.lists trivial),
    State.reset.positionsOk_iff.2 fun k => hsteady.places trivial k nofun, htimely.resetOk, htimely.timingOk,
    ?_, ?_, hlink, ⟨.nil, nofun⟩, ⟨List.pairwise_singleton _ _, ?_⟩, ⟨nofun, List.forall_mem_singleton.2 rfl⟩⟩
  · unfold Ring.ok; decide
  · unfold NoticeSet.ok; decide
  · exact List.forall_mem_singleton.2 (by decide)

end Sys2Proof.Machine

/-!
SUPPORT. The layouts of capture records and notice entries, and the codes of their kinds, sources and names
(11_message_and_record_formats.md, R178, R181 and R182).
-/

namespace Sys2Proof.Machine

/-! ### Lengths of the fields -/

@[simp] theorem wordBytes_length (v : BitVec 32) : (wordBytes v).length = 4 := leBytes_length _ _

@[simp] theorem positionBytes_length (p : Position) : (positionBytes p).length = 4 := by simp [positionBytes]

@[simp] theorem sourceBytes_length (source : Option StartSource) : (sourceBytes source).length = 2 := by
  rcases source with _ | source
  · rfl
  · cases source <;> rfl

/-- The details of every kind fit the 16 bytes of FIGURE 8; those of a fault or a timeout are the longest, 15 bytes. -/
theorem RecordBody.details_length_le (r : RecordBody) : r.details.length ≤ 16 := by
  cases r <;> simp [RecordBody.details]

/-- The detail of every kind fits the 4 bytes of FIGURE 10; a position and a serial fill them. -/
theorem NoticeDetail.bytes_length_le (d : NoticeDetail) : d.bytes.length ≤ 4 := by
  cases d <;> simp [NoticeDetail.bytes]

/-! ### Padding -/

/-- Bytes padded behind a header, as one run of bytes: the header, the bytes, and 0 up to the length of the field. -/
theorem append_padTo (header p : List Byte) (k : Nat) :
    header ++ padTo k p = header ++ p ++ List.replicate (k - p.length) 0x00 :=
  (List.append_assoc _ _ _).symm

/-- Settles O42: the layouts by `append_padTo`, with details that fit their field, kind by kind; kinds and sources by
cases over the kind; the codes of names by the tables themselves. -/
theorem recordAndNoticeLayouts : Obligations.RecordAndNoticeLayouts := by
  refine ⟨?records, ?notices, ?recordKinds, fun l => ⟨rfl, fun _ => rfl⟩, fun _ => ⟨rfl, rfl⟩, rfl, ?names⟩
  case records =>
    refine fun r => ⟨r.body.details, r.body.details_length_le, append_padTo _ _ _, ?_⟩
    cases r.body <;> rfl
  case notices =>
    refine fun e => ⟨e.detail.bytes, e.detail.bytes_length_le, append_padTo _ _ _, ?_⟩
    cases e.detail <;> rfl
  case recordKinds =>
    intro r
    cases r <;> rfl
  case names =>
    exact ⟨rfl, rfl, rfl, rfl, rfl, fun _ => rfl, fun _ => rfl, rfl, rfl, rfl, fun _ => rfl, rfl, rfl, rfl, rfl⟩

end Sys2Proof.Machine

/-!
SUPPORT. A step and the queue of commands (95_what_each_step_holds.md).
-/

namespace Sys2Proof.Machine

/-- Settles O1: by `step_of_pending`; the pushed command's rest is the queue of `s`, so the state it executes in is `s`. -/
theorem stepTakesFrontCommand : Obligations.StepTakesFrontCommand := by
  intro c s
  have hfront : ({ s with pending := c :: s.pending } : State).pending = c :: s.pending := rfl
  exact step_of_pending hfront

end Sys2Proof.Machine
